-- ==== Sys2Proof/Word.lean ====
section
/-! DEFINITION. The widths of the block's values (00_scope.md R6, R8). -/

namespace Sys2Proof

/-- An unsigned byte of the stream (R8). -/
abbrev Byte := BitVec 8

/-- A 16-bit field of the wire format: `LEN` or `CHECKSUM` (R6). -/
abbrev Half := BitVec 16

/-- A command word, `in_cmd[9:0]` (R41). -/
abbrev CmdWord := BitVec 10

/-- The value of a checksum accumulator, `ACC_W = 15` bits (R6, R59). -/
abbrev Sum15 := BitVec 15

/-- The value of the body byte counter, `CNT_W = 17` bits (R6, R20). -/
abbrev Count17 := BitVec 17

/-- The value of the port `out_rec`, 95 bits (R40, R45). -/
abbrev RecWord := BitVec 95

end Sys2Proof
end

