-- ==== Sys2Proof/Config.lean ====
section
/-! DEFINITION. The block's constants (00_scope.md R6). None is a parameter: the spec fixes every value, and leaves none
free. -/

namespace Sys2Proof

/-- A frame marker: two bytes in stream order (R6, R31). -/
structure Marker where
  first : Byte
  second : Byte
deriving DecidableEq, Repr

namespace Config

/-- `START`: 0xA0 then 0xA2 (R6, R51). -/
def startMarker : Marker := ⟨0xA0, 0xA2⟩

/-- `END`: 0xB0 then 0xB3 (R6, R51). -/
def endMarker : Marker := ⟨0xB0, 0xB3⟩

/-- `NMAX`, the value at which the body byte counter saturates (R6, R20): 2^17 - 1. -/
def nmax : Nat := 131071

/-- The number of payload bytes a legal frame stays below (R6, R56). -/
def payloadBound : Nat := 1024

/-- A body shorter than this holds no `LEN` and `CHECKSUM`: a runt (R12, R85). -/
def minBody : Nat := 4

/-- A body at least this long has a payload byte, so an id (R92). -/
def minIdBody : Nat := 5

end Config
end Sys2Proof
end

