-- ==== Sys2Proof/Machine/State.lean ====
section
/-! DEFINITION. The machine's state as plain data (10_state.md R13), the events (30_encoding.md R44), the input port
(R40), the state after reset (R27, R113), and the reasons a step could stop. -/

namespace Sys2Proof.Machine

/-- The decoder's mode (R17). -/
inductive Mode where
  /-- No start marker since the last END, FLUSH or reset. -/
  | hunt
  /-- A start marker has been seen and its end marker has not. -/
  | body
deriving DecidableEq, Repr

/-- The record of an END event (30_encoding.md R45, 42_validator.md R91). -/
structure FrameRecord where
  bodyLen : Count17
  actLen : Count17
  declLen : Half
  declChk : Half
  compChk : Half
  id : Byte
  idValid : Bool
  runt : Bool
  lenErr : Bool
  chkErr : Bool
  ok : Bool
deriving DecidableEq, Repr

/-- An output event (R44). The kind `11` is never produced (R48), so it has no constructor. -/
inductive Event where
  /-- BYTE: a confirmed body byte. -/
  | byte (b : Byte)
  /-- END: the record of the frame that ended. -/
  | frameEnd (r : FrameRecord)
  /-- ABORT: the number of confirmed bytes of the abandoned frame. -/
  | abort (bodyLen : Count17)
deriving DecidableEq, Repr

/-- What the environment drives on the input ports at one rising edge of `clk` (R40). -/
structure PortIn where
  rst : Bool
  inValid : Bool
  inCmd : CmdWord
deriving DecidableEq, Repr

/-- The machine. `mode` to `tacc` are the block's record (R13); `out` is what the event port presents in the current cycle
(R44, R47; log 2); `inputs` is the model's own: what the environment will drive on the coming edges, the nearest first
(DESIGN CHOICE, log 1). -/
structure State where
  /-- Decoder mode (R17). -/
  mode : Mode
  /-- HUNT only: the previous stream byte was 0xA0 (R18). -/
  saw : Bool
  /-- BODY only: a held byte is present (R19). -/
  pv : Bool
  /-- BODY only: the held byte (R19). -/
  pend : Byte
  /-- Confirmed body bytes of the current frame, saturating (R20). -/
  n : Count17
  /-- Confirmed body byte 0 (R21). -/
  lh : Byte
  /-- Confirmed body byte 1 (R21). -/
  ll : Byte
  /-- Confirmed body byte 2, the message id (R22). -/
  rid : Byte
  /-- The second-most-recent confirmed body byte (R23). -/
  t1 : Byte
  /-- The most recent confirmed body byte (R23). -/
  t0 : Byte
  /-- The receive checksum accumulator (R24). -/
  racc : Sum15
  /-- The standalone checksum accumulator (R25). -/
  tacc : Sum15
  /-- The event presented in the current cycle, if any (R44, R47). -/
  out : Option Event
  /-- What the environment will drive on the coming edges (log 1). -/
  inputs : List PortIn
deriving DecidableEq, Repr

/-- The block has no way to stop: it raises no exception and cannot trap, stall or halt (60_exceptions.md R98), so there
is no fault. Safe: nothing the spec runs is stopped (log 5). -/
inductive Fault where
deriving DecidableEq, Repr

/-- Why a step would have no meaning. -/
inductive Refusal where
  /-- Raised by `exec` alone, for a command that has no meaning in the model yet; no arm does. Safe: a refused step
  claims nothing. -/
  | notModelled (mnemonic : String)
deriving DecidableEq, Repr

/-- The state right after a reset: every field at the value of R27, no event presented (R113), and no input queued
(log 1). -/
def State.reset : State where
  mode := .hunt
  saw := false
  pv := false
  pend := 0
  n := 0
  lh := 0
  ll := 0
  rid := 0
  t1 := 0
  t0 := 0
  racc := 0
  tacc := 0
  out := none
  inputs := []

end Sys2Proof.Machine
end

