-- ==== Sys2Proof/Machine/Operands.lean ====
section
/-! DEFINITION. How operands and fields are assembled (30_encoding.md R43, 20_memory.md R30, 00_scope.md R8). Nothing is
signed, scaled or shifted. -/

namespace Sys2Proof.Machine

/-- `zext_15(data)`: a byte as the addend of a checksum accumulator (R43, R59). -/
def zext15 (b : Byte) : Sum15 := b.setWidth 15

/-- `zext_16(acc)`: an accumulator as a 16-bit field, bit 15 always 0 (R46, R61). -/
def zext16 (acc : Sum15) : Half := acc.setWidth 16

/-- `zext_17(decl_len)`: a declared length as wide as the counter (R87). -/
def zext17 (h : Half) : Count17 := h.setWidth 17

/-- `{hi, lo}`: two stream bytes as a big-endian field, the first received the most significant (R30). -/
def bigEndian (hi lo : Byte) : Half := BitVec.ofNat 16 (hi.toNat * 256 + lo.toNat)

end Sys2Proof.Machine
end

