-- ==== Sys2Proof/Machine/Flags.lean ====
section
/-! DEFINITION. Every one-bit result the spec computes: the marker tests (41_decoder.md R70, R71), the verdict bits of a
record (42_validator.md R87, R90 to R92) and the in-band error conditions (60_exceptions.md R99). -/

namespace Sys2Proof.Machine

/-- In HUNT: this byte completes a start marker (R70). -/
def completesStart (saw : Bool) (b : Byte) : Bool := saw && b == Config.startMarker.second

/-- In HUNT: the new value of `saw` when no start marker is completed (R70). -/
def beginsStart (b : Byte) : Bool := b == Config.startMarker.first

/-- In BODY: this byte completes an end marker with the held byte (R71). -/
def completesEnd (pv : Bool) (pend b : Byte) : Bool :=
  pv && pend == Config.endMarker.first && b == Config.endMarker.second

/-- The body is too short to hold `LEN` and `CHECKSUM` (R91). -/
def isRunt (n : Count17) : Bool := decide (n.toNat < Config.minBody)

/-- The length check (R87). -/
def lengthError (declLen : Half) (actLen : Count17) : Bool := zext17 declLen != actLen

/-- The checksum check (R91), a comparison of 16-bit numbers (R61, R97). -/
def checksumError (declChk compChk : Half) : Bool := declChk != compChk

/-- The frame passes both checks (R91). -/
def passes (lenErr chkErr : Bool) : Bool := !lenErr && !chkErr

/-- The body has a payload byte, so an id (R92). -/
def hasId (n : Count17) : Bool := decide (Config.minIdBody ≤ n.toNat)

/-- The error conditions the block reports in-band (R99). -/
inductive ErrorCondition where
  | runtBody
  | lengthMismatch
  | checksumMismatch
  | frameAbandoned
deriving DecidableEq, Repr

/-- The event carries the code R99 gives the condition. A resync discard has no code: it is not reported. -/
def reports (c : ErrorCondition) (e : Event) : Bool :=
  match c, e with
  | .runtBody, .frameEnd r => r.runt && r.lenErr && r.chkErr && !r.ok
  | .lengthMismatch, .frameEnd r => r.lenErr && !r.ok
  | .checksumMismatch, .frameEnd r => r.chkErr && !r.ok
  | .frameAbandoned, .abort _ => true
  | .frameAbandoned, .frameEnd _ => false
  | _, .byte _ => false
  | _, .abort _ => false

end Sys2Proof.Machine
end

