-- ==== Sys2Proof/Machine/Ops.lean ====
section
/-! DEFINITION. The operations the commands share: the checksum generator's step (40_checksum.md R59), clearing a frame
(41_decoder.md R73), the edges that run no command (20_memory.md R33, 70_reset_and_hazards.md R113). The spec has no
exception to take and none to return from (60_exceptions.md R98, R103, R104), so no operation does. -/

namespace Sys2Proof.Machine

/-- One addition of the checksum generator, `(acc + zext_15(b)) mod 2^15` (R59); both instances use it (R63, R86). -/
def accumulate (acc : Sum15) (b : Byte) : Sum15 := acc + zext15 b

/-- `min(n + 1, NMAX)`: the saturating count of confirmed bytes (R20, R86). -/
def countUp (n : Count17) : Count17 := BitVec.ofNat 17 (min (n.toNat + 1) Config.nmax)

/-- `ClearFrame` (R73). It does not touch `mode`, `saw` or `tacc`. -/
def clearFrame (s : State) : State :=
  { s with pv := false, pend := 0, n := 0, lh := 0, ll := 0, rid := 0, t1 := 0, t0 := 0, racc := 0 }

/-- Present the step's event, or none, on the output port (R44, R47). -/
def present (e : Option Event) (s : State) : State := { s with out := e }

/-- Enter a mode; each caller of `ClearFrame` sets `mode` and clears `saw` itself (R73). -/
def enterMode (m : Mode) (s : State) : State := { s with mode := m, saw := false }

/-- A rising edge with `rst = 1`: every field of the block takes its reset value and nothing is presented (R113). What the
environment will drive later is not the block's to clear. -/
def resetEdge (s : State) : State := { State.reset with inputs := s.inputs }

/-- A rising edge with no accepted command: nothing changes, and the event port shows no event (R33, R47). -/
def idleEdge (s : State) : State := present none s

end Sys2Proof.Machine
end

