-- ==== Sys2Proof/Machine/Checksum.lean ====
section
/-! DEFINITION. The standalone checksum accumulator's commands: CKCLR (40_checksum.md R62) and CKADD (R63). -/

namespace Sys2Proof.Machine

/-- CKCLR (R62). The data byte is ignored (R43). -/
def execCkclr (_data : Byte) (s : State) : Host.Outcome State Fault Refusal :=
  .next (present none { s with tacc := 0 })

/-- CKADD (R63). -/
def execCkadd (data : Byte) (s : State) : Host.Outcome State Fault Refusal :=
  .next (present none { s with tacc := accumulate s.tacc data })

end Sys2Proof.Machine
end

