-- ==== Sys2Proof/Machine/Checker.lean ====
section
/-! DEFINITION. The frame checker: `Confirm` (42_validator.md R86) and `Record` (R91). -/

namespace Sys2Proof.Machine

/-- `Confirm(p)` (R86). Every right side reads the state before the step. -/
def confirm (s : State) (p : Byte) : State :=
  { s with
    lh := if s.n.toNat = 0 then p else s.lh
    ll := if s.n.toNat = 1 then p else s.ll
    rid := if s.n.toNat = 2 then p else s.rid
    racc := if 4 ≤ s.n.toNat then accumulate s.racc s.t1 else s.racc
    t1 := s.t0
    t0 := p
    n := countUp s.n }

/-- The record of a runt body (R91): both error bits set, every value field 0 but `body_len`. -/
def runtRecord (n : Count17) : FrameRecord where
  bodyLen := n
  actLen := 0
  declLen := 0
  declChk := 0
  compChk := 0
  id := 0
  idValid := false
  runt := true
  lenErr := true
  chkErr := true
  ok := false

/-- The record of a body of `n ≥ 4` confirmed bytes (R91). -/
def fullRecord (n : Count17) (declLen declChk compChk : Half) (rid : Byte) : FrameRecord where
  bodyLen := n
  actLen := n - 4
  declLen := declLen
  declChk := declChk
  compChk := compChk
  id := if hasId n then rid else 0
  idValid := passes (lengthError declLen (n - 4)) (checksumError declChk compChk) && hasId n
  runt := false
  lenErr := lengthError declLen (n - 4)
  chkErr := checksumError declChk compChk
  ok := passes (lengthError declLen (n - 4)) (checksumError declChk compChk)

/-- `Record()`, formed from the state before the END step (R91). -/
def record (s : State) : FrameRecord :=
  if isRunt s.n then runtRecord s.n
  else fullRecord s.n (bigEndian s.lh s.ll) (bigEndian s.t1 s.t0) (zext16 s.racc) s.rid

end Sys2Proof.Machine
end

