-- ==== Sys2Proof/Machine/Decoder.lean ====
section
/-! DEFINITION. The frame decoder's commands: RXB (41_decoder.md R69 to R71) and FLUSH (R72). -/

namespace Sys2Proof.Machine

/-- `RXB_HUNT(b)`, the start-marker detector (R70). -/
def rxbHunt (b : Byte) (s : State) : State :=
  if completesStart s.saw b then present none (enterMode .body (clearFrame s))
  else present none { s with saw := beginsStart b }

/-- `RXB_BODY(b)`, the end-marker detector with a one-byte hold (R71). -/
def rxbBody (b : Byte) (s : State) : State :=
  if completesEnd s.pv s.pend b then
    present (some (.frameEnd (record s))) (enterMode .hunt (clearFrame s))
  else if s.pv then
    present (some (.byte s.pend)) { confirm s s.pend with pend := b }
  else
    present none { s with pend := b, pv := true }

/-- RXB (R69). -/
def execRxb (data : Byte) (s : State) : Host.Outcome State Fault Refusal :=
  match s.mode with
  | .hunt => .next (rxbHunt data s)
  | .body => .next (rxbBody data s)

/-- The event FLUSH emits: ABORT with the confirmed count in BODY, none in HUNT (R72). -/
def flushEvent (s : State) : Option Event :=
  match s.mode with
  | .hunt => none
  | .body => some (.abort s.n)

/-- FLUSH (R72). The data byte is ignored (R43). -/
def execFlush (_data : Byte) (s : State) : Host.Outcome State Fault Refusal :=
  .next (present (flushEvent s) (enterMode .hunt (clearFrame s)))

end Sys2Proof.Machine
end

