-- ==== Sys2Proof/Syntax.lean ====
section
/-! DEFINITION. The four commands (30_encoding.md R42), one constructor for each row of the opcode table. -/

namespace Sys2Proof

/-- A command. Each carries all eight `data` bits of its word, FLUSH and CKCLR too: those ignore them (R43), and every
value is legal (R48). -/
inductive Instr where
  /-- RXB: feed the byte `data` to the frame decoder (R69). -/
  | rxb (data : Byte)
  /-- FLUSH: abandon the current stream (R72). `data` is ignored. -/
  | flush (data : Byte)
  /-- CKCLR: clear the standalone accumulator (R62). `data` is ignored. -/
  | ckclr (data : Byte)
  /-- CKADD: add `data` to the standalone accumulator (R63). -/
  | ckadd (data : Byte)
deriving DecidableEq, Repr

namespace Instr

/-- The op field of the command's word (R42). -/
def op : Instr → BitVec 2
  | .rxb _ => 0
  | .flush _ => 1
  | .ckclr _ => 2
  | .ckadd _ => 3

/-- The data field of the command's word (R41). -/
def data : Instr → Byte
  | .rxb d => d
  | .flush d => d
  | .ckclr d => d
  | .ckadd d => d

end Instr
end Sys2Proof
end

