-- ==== Sys2Proof/Machine/Dispatch.lean ====
section
/-! DEFINITION. One arm for each command of the opcode table. -/

namespace Sys2Proof.Machine

/-- The effect of one accepted command (00_scope.md R5). -/
def exec (i : Instr) (s : State) : Host.Outcome State Fault Refusal :=
  match i with
  | .rxb data => Sys2Proof.Machine.execRxb data s
  | .flush data => Sys2Proof.Machine.execFlush data s
  | .ckclr data => Sys2Proof.Machine.execCkclr data s
  | .ckadd data => Sys2Proof.Machine.execCkadd data s

end Sys2Proof.Machine
end

