-- ==== Sys2Proof/WellFormed.lean ====
section
/-! DEFINITION. What is well-formed: every command (30_encoding.md R48), a number that is a command word (R41), a payload
the reference encoder takes (R56). -/

namespace Sys2Proof

/-- Every command with every data byte is legal (R48), so the check passes each constructor. -/
def Instr.wellFormed : Instr → Bool
  | .rxb _ => true
  | .flush _ => true
  | .ckclr _ => true
  | .ckadd _ => true

/-- A number is a command word when it fits in the 10 bits of `in_cmd` (R41). -/
def wellFormedWord (w : Nat) : Bool := decide (w < 1024)

/-- The reference encoder takes payloads shorter than 1024 bytes (R56). -/
def wellFormedPayload (p : List Byte) : Bool := decide (p.length < Config.payloadBound)

end Sys2Proof
end

