-- ==== Sys2Proof/Decode.lean ====
section
/-! DEFINITION. The decoder and the encoder of command words (30_encoding.md R41, R42, R49). -/

namespace Sys2Proof

/-- `op = w[9:8]` (R41). -/
def opField (w : CmdWord) : BitVec 2 := w.extractLsb' 8 2

/-- `data = w[7:0]` (R41). -/
def dataField (w : CmdWord) : Byte := w.extractLsb' 0 8

/-- Decoding is a total function from the 1024 words to the four commands (R49), by the op map of R42. -/
def decode (w : CmdWord) : Instr :=
  match (opField w).toNat with
  | 0 => .rxb (dataField w)
  | 1 => .flush (dataField w)
  | 2 => .ckclr (dataField w)
  | _ => .ckadd (dataField w)

/-- The word of a command, as a number `op * 256 + data` (R41). -/
def encode (i : Instr) : CmdWord := BitVec.ofNat 10 (i.op.toNat * 256 + i.data.toNat)

/-- Why a number is refused by the decoder. -/
inductive DecodeError where
  /-- The number needs more than the 10 bits of `in_cmd` (R41), so no command word is that number. -/
  | notACommandWord (w : Nat)
deriving DecidableEq, Repr

/-- The decoder on any number: the command whose word it is, or a refusal by name. -/
def decodeNumber (w : Nat) : Except DecodeError Instr :=
  if wellFormedWord w then .ok (decode (BitVec.ofNat 10 w)) else .error (.notACommandWord w)

/-- The command word held in the low `nbits` bits of a number, where there is one. -/
def commandWord (nbits w : Nat) : Option CmdWord :=
  if wellFormedWord (w % 2 ^ nbits) then some (BitVec.ofNat 10 (w % 2 ^ nbits)) else none

/-- The command the decoder reads from an instruction of `nbits` bits given as a number, bit 0 the least significant
(the numbering of spec/opcode_table.json, which is R41's). -/
def decodeTableWord (nbits w : Nat) : Option Instr := (commandWord nbits w).map decode

end Sys2Proof
end

