-- ==== Sys2Proof/Machine/Fetch.lean ====
section
/-! DEFINITION. What a rising edge of `clk` does to the block, read from the input ports (30_encoding.md R40, R41; log 1). -/

namespace Sys2Proof.Machine

/-- An edge that offers one command. -/
def PortIn.command (w : CmdWord) : PortIn := ⟨false, true, w⟩

/-- An edge that offers nothing. -/
def PortIn.idle : PortIn := ⟨false, false, 0⟩

/-- An edge that resets the block. -/
def PortIn.reset : PortIn := ⟨true, false, 0⟩

/-- What an edge does. -/
inductive EdgeAction where
  /-- `rst = 1`: reset, whatever is offered (R102, R113). -/
  | reset
  /-- No command is offered (R33). -/
  | idle
  /-- A command is accepted (R41). -/
  | accept (w : CmdWord)
deriving DecidableEq, Repr

/-- Reset has priority over a command; a command is accepted when `rst = 0` and `in_valid = 1` (R40, R102). -/
def edgeAction (e : PortIn) : EdgeAction :=
  if e.rst then .reset else if e.inValid then .accept e.inCmd else .idle

/-- The next edge. Once the queued inputs have run out the environment offers nothing (R75; DESIGN CHOICE, log 1). -/
def nextEdge (s : State) : PortIn := s.inputs.head?.getD PortIn.idle

/-- The edge is over: the environment's next one comes to the head. -/
def consumeEdge (s : State) : State := { s with inputs := s.inputs.tail }

/-- The edge that offers the command word held in the low `nbits` bits of `w` comes next, before all queued edges; a
number that is no command word offers none. -/
def offerWord (s : State) (nbits w : Nat) : State :=
  match commandWord nbits w with
  | some c => { s with inputs := PortIn.command c :: s.inputs }
  | none => s

end Sys2Proof.Machine
end

