-- ==== Sys2Proof/Machine/Step.lean ====
section
/-! DEFINITION. One rising edge of `clk` (00_scope.md R5, 30_encoding.md R40). -/

namespace Sys2Proof.Machine

/-- One edge: a reset, an accepted command, or nothing. -/
def step (s : State) : Host.Outcome State Fault Refusal :=
  match edgeAction (nextEdge s) with
  | .reset => .next (resetEdge (consumeEdge s))
  | .idle => .next (idleEdge (consumeEdge s))
  | .accept w => exec (decode w) (consumeEdge s)

/-- The state in which the next edge offers the given instruction: the block stores no program (10_state.md R14), so an
instruction stands at the input port (log 3). -/
def State.withFetchWord (s : State) (nbits w : Nat) : State := offerWord s nbits w

end Sys2Proof.Machine
end

