-- ==== Sys2Proof/Machine/Reference.lean ====
section
/-! DEFINITION. The spec's reference functions, written from their own rules and apart from the block: `Checksum`
(40_checksum.md R59), `FindFirst` (41_decoder.md R67), `RefFeed` (R68), `Validate` (42_validator.md R85), `EncodeRef`
(30_encoding.md R56). -/

namespace Sys2Proof.Machine

/-- `Checksum(l)`: the sum of the bytes, kept to 15 bits after each addition (R59). -/
def checksum (l : List Byte) : Sum15 := l.foldl (fun acc b => acc + b.setWidth 15) 0

/-- `FindFirst(l, M)`: the least index at which the marker occurs (R67), by whole bytes (R10). -/
def findFirst (m : Marker) : List Byte → Option Nat
  | [] => none
  | a :: l =>
    if a = m.first ∧ l.head? = some m.second then some 0 else (findFirst m l).map (· + 1)

/-- `START` does not occur in the list. -/
abbrev NoStart (l : List Byte) : Prop := findFirst Config.startMarker l = none

/-- `END` does not occur in the list. -/
abbrev NoEnd (l : List Byte) : Prop := findFirst Config.endMarker l = none

/-- `l[i..j)` (R8). -/
def slice (l : List Byte) (i j : Nat) : List Byte := (l.take j).drop i

/-- The loop of `RefFeed` (R68), with at most `fuel` turns: every turn that goes on drops a byte or more, so the length of
the buffer is enough. -/
def rescan : Nat → List Byte → List Byte × List (List Byte)
  | 0, buf => (buf, [])
  | fuel + 1, buf =>
    match findFirst Config.startMarker buf, findFirst Config.endMarker buf with
    | some s, some e =>
      if e < s then rescan fuel (buf.drop s)
      else
        let r := rescan fuel (buf.drop (e + 2))
        (r.1, slice buf (s + 2) e :: r.2)
    | _, _ => (buf, [])

/-- `RefFeed(B, c)`: the new buffer and the bodies emitted (R68). -/
def refFeed (buf c : List Byte) : List Byte × List (List Byte) :=
  rescan (buf ++ c).length (buf ++ c)

/-- The source's decoder fed a list of chunks, one after another (R39). -/
def refFeedChunks (buf : List Byte) : List (List Byte) → List Byte × List (List Byte)
  | [] => (buf, [])
  | c :: cs =>
    let r := refFeed buf c
    let q := refFeedChunks r.1 cs
    (q.1, r.2 ++ q.2)

/-- The verdict on a frame body (R85). `actLen` is the true payload byte count, not a 17-bit field. -/
structure Verdict where
  runt : Bool
  lenErr : Bool
  chkErr : Bool
  ok : Bool
  declLen : Half
  declChk : Half
  compChk : Half
  actLen : Nat
  id : Byte
  idValid : Bool
deriving DecidableEq, Repr

/-- The byte at an index, 0 past the end. -/
def byteAt (l : List Byte) (i : Nat) : Byte := (l[i]?).getD 0

/-- The payload of a body: `body[2 .. n-2)` (R85). -/
def payloadOf (body : List Byte) : List Byte := slice body 2 (body.length - 2)

/-- The number a big-endian pair of bytes stands for (R30). -/
def pairValue (hi lo : Byte) : Nat := hi.toNat * 256 + lo.toNat

/-- `Validate(body)` (R85). -/
def validate (body : List Byte) : Verdict :=
  let n := body.length
  if n < 4 then
    { runt := true, lenErr := true, chkErr := true, ok := false, declLen := 0, declChk := 0, compChk := 0,
      actLen := 0, id := 0, idValid := false }
  else
    let declLen := pairValue (byteAt body 0) (byteAt body 1)
    let declChk := pairValue (byteAt body (n - 2)) (byteAt body (n - 1))
    let compChk := (checksum (payloadOf body)).toNat
    let lenErr := decide (declLen ≠ n - 4)
    let chkErr := decide (declChk ≠ compChk)
    let ok := !lenErr && !chkErr
    { runt := false, lenErr := lenErr, chkErr := chkErr, ok := ok,
      declLen := BitVec.ofNat 16 declLen, declChk := BitVec.ofNat 16 declChk, compChk := BitVec.ofNat 16 compChk,
      actLen := n - 4, id := if 5 ≤ n then byteAt body 2 else 0, idValid := ok && decide (5 ≤ n) }

/-- The record the block must report for a body (R91): the verdict of `Validate`, with `body_len` and `act_len` capped
where the counter saturates (R89). -/
def expectedRecord (body : List Byte) : FrameRecord :=
  let v := validate body
  { bodyLen := BitVec.ofNat 17 (min body.length Config.nmax),
    actLen := BitVec.ofNat 17 (min v.actLen (Config.nmax - 4)),
    declLen := v.declLen, declChk := v.declChk, compChk := v.compChk, id := v.id, idValid := v.idValid,
    runt := v.runt, lenErr := v.lenErr, chkErr := v.chkErr, ok := v.ok }

/-- The two bytes of a 16-bit field in stream order, the most significant first (R30). -/
def fieldBytes (v : Nat) : List Byte := [BitVec.ofNat 8 (v / 256), BitVec.ofNat 8 v]

/-- The frame body a sender builds for a payload: `LEN ++ PAYLOAD ++ CHECKSUM` (R54). -/
def encodedBody (p : List Byte) : List Byte := fieldBytes p.length ++ p ++ fieldBytes (checksum p).toNat

/-- The two bytes of a marker in stream order (R31). -/
def markerBytes (m : Marker) : List Byte := [m.first, m.second]

/-- A body between its markers (R50). -/
def framed (body : List Byte) : List Byte :=
  markerBytes Config.startMarker ++ body ++ markerBytes Config.endMarker

/-- `EncodeRef(p)`, for payloads of fewer than 1024 bytes (R56); a longer one is the caller's error and gives nothing. -/
def encodeRef (p : List Byte) : Option (List Byte) :=
  if p.length < Config.payloadBound then some (framed (encodedBody p)) else none

/-- The logical message of a valid body: its id, where the payload has one, and the message body (R55). -/
def messageOf (body : List Byte) : Option Byte × List Byte :=
  ((payloadOf body).head?, (payloadOf body).tail)

end Sys2Proof.Machine
end

