-- ==== Sys2Proof/Machine/Run.lean ====
section
/-! DEFINITION. Runs of the machine over a list of edges, and what the event port shows during one. -/

namespace Sys2Proof.Machine

/-- The machine with the given edges to come, and no others. -/
def State.withInputs (s : State) (es : List PortIn) : State := { s with inputs := es }

/-- What the event port presents after each of the next `k` edges, up to a stop. -/
def outputs : Nat → State → List (Option Event)
  | 0, _ => []
  | k + 1, s =>
    match step s with
    | .next t => t.out :: outputs k t
    | .fault _ => []
    | .refused _ => []

/-- The state after the next `k` edges, or the one a stop left. -/
def stateAfter : Nat → State → State
  | 0, s => s
  | k + 1, s =>
    match step s with
    | .next t => stateAfter k t
    | .fault _ => s
    | .refused _ => s

/-- What the event port presents after each edge of a list. -/
def outputsOf (es : List PortIn) (s : State) : List (Option Event) := outputs es.length (s.withInputs es)

/-- The events of a run over a list of edges, in order. -/
def eventsOf (es : List PortIn) (s : State) : List Event := (outputsOf es s).filterMap (fun o => o)

/-- The state after a list of edges. -/
def finalOf (es : List PortIn) (s : State) : State := stateAfter es.length (s.withInputs es)

/-- The effects of a list of commands, one after another, each on the state the one before it left (R35), up to a stop. -/
def execAll : List Instr → State → Host.Outcome State Fault Refusal
  | [], s => .next s
  | i :: is, s =>
    match exec i s with
    | .next t => execAll is t
    | .fault r => .fault r
    | .refused r => .refused r

/-- The edges that offer a list of commands, one on each edge. -/
def commandEdges (is : List Instr) : List PortIn := is.map (fun i => PortIn.command (encode i))

/-- The edges that feed a list of stream bytes, one RXB a byte (R58's FEED). -/
def feed (xs : List Byte) : List PortIn := commandEdges (xs.map Instr.rxb)

/-- What has passed since the start marker of the frame in progress was detected, that is since the last transition into
BODY (R28 I4 and I5, R77): the bytes received by RXB and the bytes emitted by BYTE events. Empty in HUNT. -/
structure FrameHistory where
  received : List Byte
  emitted : List Byte
deriving DecidableEq, Repr

/-- No frame is in progress, or none of its bytes has come. -/
def FrameHistory.none : FrameHistory := ⟨[], []⟩

/-- The stream byte a command feeds (R69). -/
def fedByte : Instr → List Byte
  | .rxb b => [b]
  | .flush _ => []
  | .ckclr _ => []
  | .ckadd _ => []

/-- The stream byte accepted on an edge, if any (R29, R41). -/
def receivedOn (e : PortIn) : List Byte :=
  match edgeAction e with
  | .reset => []
  | .idle => []
  | .accept w => fedByte (decode w)

/-- The body byte an event port presentation carries, if any (R44). -/
def emittedIn : Option Event → List Byte
  | .none => []
  | .some (.byte b) => [b]
  | .some (.frameEnd _) => []
  | .some (.abort _) => []

/-- The history after the edge `e` took the block from `s` to `t`: within BODY it grows; every other edge, the one that
enters BODY among them, leaves it empty. -/
def historyAfter (s : State) (e : PortIn) (t : State) (h : FrameHistory) : FrameHistory :=
  if s.mode = .body ∧ t.mode = .body then ⟨h.received ++ receivedOn e, h.emitted ++ emittedIn t.out⟩
  else FrameHistory.none

/-- The history after the next `k` edges. -/
def historyFor : Nat → State → FrameHistory → FrameHistory
  | 0, _, h => h
  | k + 1, s, h =>
    match step s with
    | .next t => historyFor k t (historyAfter s (nextEdge s) t h)
    | .fault _ => h
    | .refused _ => h

/-- The history at the end of a list of edges that begins with no frame in progress. -/
def historyOf (es : List PortIn) (s : State) : FrameHistory :=
  historyFor es.length (s.withInputs es) FrameHistory.none

/-- The frame bodies a list of events carries, `pending` being the bytes shown since the last boundary: a body is the run
of BYTE events up to an END; an ABORT drops the run (R44). -/
def bodiesFrom (pending : List Byte) : List Event → List (List Byte)
  | [] => []
  | .byte b :: es => bodiesFrom (pending ++ [b]) es
  | .frameEnd _ :: es => pending :: bodiesFrom [] es
  | .abort _ :: es => bodiesFrom [] es

/-- The frame bodies of a list of events that begins between frames. -/
def bodiesOf (es : List Event) : List (List Byte) := bodiesFrom [] es

/-- The records of the END events of a list, in order. -/
def recordsOf (es : List Event) : List FrameRecord :=
  es.filterMap (fun e => match e with | .frameEnd r => some r | .byte _ => none | .abort _ => none)

end Sys2Proof.Machine
end

