-- ==== Sys2Proof/Machine/Assembler.lean ====
section
/-! DEFINITION. The textual syntax for command sequences (30_encoding.md R58). It is no part of the block. Text is a list
of characters; log 9 names the lexical points R58 leaves open. -/

namespace Sys2Proof.Machine

/-- A line of a command sequence: a command or a pseudo-instruction (R58). -/
inductive AsmLine where
  | command (i : Instr)
  | feed (bytes : List Byte)
  | frame (payload : List Byte)
  | cksum (payload : List Byte)
  | idle (k : Nat)
deriving DecidableEq, Repr

/-- `CKSUM p`: clear, then add each byte (R58). -/
def cksumProgram (p : List Byte) : List Instr := .ckclr 0 :: p.map Instr.ckadd

/-- The edges a line stands for (R58); FRAME takes payloads shorter than 1024 bytes only (R56). -/
def AsmLine.expand : AsmLine → Option (List PortIn)
  | .command i => some (commandEdges [i])
  | .feed bytes => some (Sys2Proof.Machine.feed bytes)
  | .frame p => (encodeRef p).map Sys2Proof.Machine.feed
  | .cksum p => some (commandEdges (cksumProgram p))
  | .idle k => some (List.replicate k PortIn.idle)

/-- The edges of a sequence of lines, in order. -/
def expandAll : List AsmLine → Option (List PortIn)
  | [] => some []
  | l :: ls => l.expand.bind (fun es => (expandAll ls).map (es ++ ·))

/-- The value of a hex digit. -/
def hexDigit (c : Char) : Option Nat :=
  if 48 ≤ c.toNat ∧ c.toNat ≤ 57 then some (c.toNat - 48)
  else if 97 ≤ c.toNat ∧ c.toNat ≤ 102 then some (c.toNat - 87)
  else if 65 ≤ c.toNat ∧ c.toNat ≤ 70 then some (c.toNat - 55)
  else none

/-- A byte from two hex digits. -/
def hexByte (a b : Char) : Option Byte :=
  (hexDigit a).bind (fun x => (hexDigit b).map (fun y => BitVec.ofNat 8 (x * 16 + y)))

/-- A hex byte string, two digits a byte, the first byte first (R8). -/
def hexBytes : List Char → Option (List Byte)
  | [] => some []
  | [_] => none
  | a :: b :: t => (hexByte a b).bind (fun x => (hexBytes t).map (x :: ·))

/-- A data byte: `0xhh` or a bare two-digit hex number (R58). -/
def dataByte : List Char → Option Byte
  | [a, b] => hexByte a b
  | ['0', 'x', a, b] => hexByte a b
  | _ => none

/-- A number of cycles, in decimal (R8; log 9). -/
def cycleCount : List Char → Option Nat
  | [] => none
  | c :: cs =>
    (c :: cs).foldl
      (fun acc d => acc.bind (fun n => if 48 ≤ d.toNat ∧ d.toNat ≤ 57 then some (n * 10 + (d.toNat - 48)) else none))
      (some 0)

/-- The words of a line: what stands before `;`, cut at blanks (R58). `word` is the word being read. -/
def wordsOf (word : List Char) : List Char → List (List Char)
  | [] => if word = [] then [] else [word]
  | c :: cs =>
    if c = ';' then (if word = [] then [] else [word])
    else if c = ' ' ∨ c = '\t' then (if word = [] then wordsOf [] cs else word :: wordsOf [] cs)
    else wordsOf (word ++ [c]) cs

/-- The line a list of words spells (R58); `some none` is a line that holds no command. -/
def lineOfWords : List (List Char) → Option (Option AsmLine)
  | [] => some none
  | w :: ws =>
    match w, ws with
    | ['R', 'X', 'B'], [d] => (dataByte d).map (fun x => some (.command (.rxb x)))
    | ['F', 'L', 'U', 'S', 'H'], [] => some (some (.command (.flush 0)))
    | ['F', 'L', 'U', 'S', 'H'], [d] => (dataByte d).map (fun x => some (.command (.flush x)))
    | ['C', 'K', 'C', 'L', 'R'], [] => some (some (.command (.ckclr 0)))
    | ['C', 'K', 'C', 'L', 'R'], [d] => (dataByte d).map (fun x => some (.command (.ckclr x)))
    | ['C', 'K', 'A', 'D', 'D'], [d] => (dataByte d).map (fun x => some (.command (.ckadd x)))
    | ['F', 'E', 'E', 'D'], ds => (hexBytes ds.flatten).map (fun xs => some (.feed xs))
    | ['F', 'R', 'A', 'M', 'E'], ds => (hexBytes ds.flatten).map (fun xs => some (.frame xs))
    | ['C', 'K', 'S', 'U', 'M'], ds => (hexBytes ds.flatten).map (fun xs => some (.cksum xs))
    | ['I', 'D', 'L', 'E'], [k] => (cycleCount k).map (fun n => some (.idle n))
    | _, _ => none

/-- One line of text (R58). -/
def parseLine (text : List Char) : Option (Option AsmLine) := lineOfWords (wordsOf [] text)

end Sys2Proof.Machine
end

