-- ==== Sys2Proof/Machine/Ports.lean ====
section
/-! DEFINITION. The output ports, each computed from the state (30_encoding.md R40, R44 to R47). -/

namespace Sys2Proof.Machine

/-- The event kinds (R44). The kind `11` is never produced (R48). -/
def eventKind : Event → BitVec 2
  | .byte _ => 0
  | .frameEnd _ => 1
  | .abort _ => 2

/-- A field of `out_rec` whose lowest bit is `lo` (R45). -/
def recField {w : Nat} (lo : Nat) (v : BitVec w) : RecWord := v.setWidth 95 <<< lo

/-- The layout of `out_rec` in an END event (R45). -/
def packRecord (r : FrameRecord) : RecWord :=
  recField 0 r.bodyLen ||| recField 17 r.actLen ||| recField 34 r.declLen ||| recField 50 r.declChk |||
  recField 66 r.compChk ||| recField 82 r.id ||| recField 90 (BitVec.ofBool r.idValid) |||
  recField 91 (BitVec.ofBool r.runt) ||| recField 92 (BitVec.ofBool r.lenErr) |||
  recField 93 (BitVec.ofBool r.chkErr) ||| recField 94 (BitVec.ofBool r.ok)

/-- `out_byte` of an event: the body byte of a BYTE event, else 0 (R44). -/
def eventByte : Event → Byte
  | .byte b => b
  | .frameEnd _ => 0
  | .abort _ => 0

/-- `out_rec` of an event: the record of an END; the count of an ABORT in bits 16 to 0; 0 for a BYTE (R44). -/
def eventRec : Event → RecWord
  | .byte _ => 0
  | .frameEnd r => packRecord r
  | .abort k => k.setWidth 95

/-- The port `out_valid` (R44, R47). -/
def State.outValid (s : State) : BitVec 1 := BitVec.ofBool s.out.isSome

/-- The port `out_kind`, 0 with no event (R47). -/
def State.outKind (s : State) : BitVec 2 := (s.out.map eventKind).getD 0

/-- The port `out_byte`, 0 with no event (R47). -/
def State.outByte (s : State) : Byte := (s.out.map eventByte).getD 0

/-- The port `out_rec`, 0 with no event (R47). -/
def State.outRec (s : State) : RecWord := (s.out.map eventRec).getD 0

/-- The port `ck_value`, `zext_16(tacc)` at all times (R46). -/
def State.ckValue (s : State) : Half := zext16 s.tacc

end Sys2Proof.Machine
end

