-- ==== Sys2Proof/Machine/Consumer.lean ====
section
/-! DEFINITION. The consumer of the event port that keeps its duties (70_reset_and_hazards.md R121). It is part of the
environment, not of the block (log 8). -/

namespace Sys2Proof.Machine

/-- A frame the consumer takes as valid: its body, and its message id where `id_valid = 1` (R121). -/
structure Delivery where
  body : List Byte
  id : Option Byte
deriving DecidableEq, Repr

/-- The consumer: the pending body, and what it has delivered, the first first. -/
structure Consumer where
  pending : List Byte
  delivered : List Delivery
deriving DecidableEq, Repr

/-- A consumer that has seen nothing, as after a reset (R117). -/
def Consumer.fresh : Consumer := ⟨[], []⟩

/-- One event (R121). -/
def Consumer.take (c : Consumer) : Event → Consumer
  | .byte b => { c with pending := c.pending ++ [b] }
  | .frameEnd r =>
    { pending := []
      delivered :=
        if r.ok then c.delivered ++ [⟨c.pending, if r.idValid then some r.id else none⟩] else c.delivered }
  | .abort _ => { c with pending := [] }

/-- One cycle: after a reset edge the pending body is dropped; otherwise the event presented, if any, is taken (R121). -/
def Consumer.cycle (c : Consumer) (rst : Bool) (out : Option Event) : Consumer :=
  if rst then { c with pending := [] }
  else
    match out with
    | none => c
    | some e => c.take e

/-- The block and its consumer over the next `k` edges. -/
def consumeFor : Nat → State × Consumer → State × Consumer
  | 0, p => p
  | k + 1, p =>
    match step p.1 with
    | .next t => consumeFor k (t, p.2.cycle (nextEdge p.1).rst t.out)
    | .fault _ => p
    | .refused _ => p

/-- The block and its consumer after a list of edges. -/
def consume (es : List PortIn) (p : State × Consumer) : State × Consumer :=
  consumeFor es.length (p.1.withInputs es, p.2)

end Sys2Proof.Machine
end

