-- ==== Sys2Proof/Safety.lean ====
section
/-! DEFINITION. The terms claims use: the invariant of every step (10_state.md R28), the relation of the block to the
source's decoder (41_decoder.md R77), and of the block to its consumer. -/

namespace Sys2Proof.Machine

/-- The frame fields are clear: what `ClearFrame` leaves (R73). -/
structure FrameClear (s : State) : Prop where
  pv : s.pv = false
  pend : s.pend = 0
  n : s.n = 0
  lh : s.lh = 0
  ll : s.ll = 0
  rid : s.rid = 0
  t1 : s.t1 = 0
  t0 : s.t0 = 0
  racc : s.racc = 0

/-- What every step keeps (R28 I1, I2 and I5; R19; R90 for short bodies; 93_implementation_defined.md item 11). -/
structure Inv (s : State) : Prop where
  /-- I1, and in HUNT every frame field is clear. -/
  hunt_clear : s.mode = .hunt → FrameClear s
  /-- I2. -/
  body_saw : s.mode = .body → s.saw = false
  /-- I5. -/
  unheld_count : s.pv = false → s.n = 0
  /-- `pend` is 0 when nothing is held (R19). -/
  unheld_pend : s.pv = false → s.pend = 0
  /-- Fields not yet written by a confirm are 0 (R90). -/
  n0 : s.n.toNat = 0 → s.lh = 0 ∧ s.t0 = 0
  n1 : s.n.toNat ≤ 1 → s.ll = 0 ∧ s.t1 = 0
  n2 : s.n.toNat ≤ 2 → s.rid = 0
  n4 : s.n.toNat ≤ 4 → s.racc = 0

/-- The checker fields hold what R90 says they hold after the confirmed bytes `c`. -/
structure CheckerHolds (s : State) (c : List Byte) : Prop where
  n : s.n.toNat = min c.length Config.nmax
  lh : s.lh = byteAt c 0
  ll : s.ll = byteAt c 1
  rid : s.rid = byteAt c 2
  t0 : s.t0 = if 1 ≤ c.length then byteAt c (c.length - 1) else 0
  t1 : s.t1 = if 2 ≤ c.length then byteAt c (c.length - 2) else 0
  racc : s.racc = checksum (payloadOf c)

/-- The held byte as a list (R77). -/
def heldBytes (s : State) : List Byte := if s.pv then [s.pend] else []

/-- The relation of R77 between the block, the source decoder's buffer `buf`, and the bytes `c` of the BYTE events since
the last transition into BODY (none in HUNT). -/
structure Abstracts (s : State) (buf c : List Byte) : Prop where
  /-- (a) -/
  hunt_iff : s.mode = .hunt ↔ NoStart buf
  /-- (b) -/
  saw_iff : s.mode = .hunt → (s.saw = true ↔ buf.getLast? = some Config.startMarker.first)
  hunt_confirmed : s.mode = .hunt → c = []
  /-- (c) -/
  body_buffer : s.mode = .body → ∃ i, findFirst Config.startMarker buf = some i ∧ NoEnd buf ∧ NoStart (buf.take i) ∧
    NoEnd (buf.take i) ∧ buf.drop (i + 2) = c ++ heldBytes s
  /-- (d) -/
  body_checker : s.mode = .body → CheckerHolds s c

/-- The bytes of the BYTE events since the last transition into BODY, after one more step that presented `out`. -/
def confirmedAfter (c : List Byte) (out : Option Event) : List Byte :=
  match out with
  | none => c
  | some (.byte b) => c ++ [b]
  | some (.frameEnd _) => []
  | some (.abort _) => []

/-- In BODY the checker has confirmed exactly the bytes emitted since START (R28 I4, R90), and the bytes received since
START are those and the held one, so none where nothing is held (R28 I5). -/
structure HistoryAgrees (s : State) (h : FrameHistory) : Prop where
  checker : s.mode = .body → CheckerHolds s h.emitted
  received : s.mode = .body → h.received = h.emitted ++ heldBytes s

/-- A body the consumer may deliver, as R93 demands: it verifies, it holds no END, and its id is its first payload
byte. -/
structure ValidDelivery (d : Delivery) : Prop where
  verifies : (validate d.body).ok = true
  noEnd : NoEnd d.body
  id : d.id = (payloadOf d.body).head?

/-- The consumer of R121 (log 8) keeps step with the block: it has pending the bytes emitted since START, and no END has
formed in them and the held byte; between frames it has nothing pending; and it has delivered only valid bodies. -/
structure ConsumerAgrees (s : State) (h : FrameHistory) (c : Consumer) : Prop where
  hunt_pending : s.mode = .hunt → c.pending = []
  body_pending : s.mode = .body → c.pending = h.emitted
  body_noEnd : s.mode = .body → NoEnd (c.pending ++ heldBytes s)
  delivered : ∀ d ∈ c.delivered, ValidDelivery d

/-- The bodies a step ends, `c` being the bytes confirmed before it (R78). -/
def bodiesEnded (c : List Byte) (out : Option Event) : List (List Byte) :=
  match out with
  | none => []
  | some (.byte _) => []
  | some (.frameEnd _) => [c]
  | some (.abort _) => []

/-- What a decoder in HUNT may still pair with its next byte: 0xA0 where `saw` is set (R77 (b)). -/
def huntTail (s : State) : List Byte := if s.saw then [Config.startMarker.first] else []

/-- A decoder that has just been made: HUNT with `saw = 0` and the frame fields clear, as after reset and FLUSH (R116). -/
structure FreshDecoder (s : State) : Prop where
  mode : s.mode = .hunt
  saw : s.saw = false
  frame : FrameClear s

/-- The record of the first END event of a list. -/
def firstRecord (es : List Event) : Option FrameRecord := (recordsOf es).head?

/-- The bytes of the BYTE events since the last transition into BODY, over the outputs of a run from HUNT. -/
def confirmedBy (outs : List (Option Event)) : List Byte := outs.foldl confirmedAfter []

/-- A command of the receive path (R35). -/
def isReceive : Instr → Bool
  | .rxb _ => true
  | .flush _ => true
  | .ckclr _ => false
  | .ckadd _ => false

/-- The bytes the CKADD commands of a list add, in order. -/
def addedBytes (is : List Instr) : List Byte :=
  is.filterMap (fun i => match i with | .ckadd b => some b | .rxb _ => none | .flush _ => none | .ckclr _ => none)

/-- No command of a list is CKCLR. -/
def NoClear (is : List Instr) : Prop := ∀ d, Instr.ckclr d ∉ is

/-- Two states agree on everything the receive path reads or writes, so on all but `tacc`, the event presented, and the
inputs to come. -/
structure SameReceiver (s t : State) : Prop where
  mode : s.mode = t.mode
  saw : s.saw = t.saw
  pv : s.pv = t.pv
  pend : s.pend = t.pend
  n : s.n = t.n
  lh : s.lh = t.lh
  ll : s.ll = t.ll
  rid : s.rid = t.rid
  t1 : s.t1 = t.t1
  t0 : s.t0 = t.t0
  racc : s.racc = t.racc

end Sys2Proof.Machine
end

