-- ==== Sys2Proof/Certificates/Slice0/Obligations.lean ====
section
/-! DEFINITION. The statements for the provers. -/

open Sys2Proof Sys2Proof.Machine

/-! Encoding -/

/-- R49, with the op map of R42: decoding is a total function of the word's two fields. -/
def Obligations.DecodeReadsOpAndData : Prop :=
  ∀ w : CmdWord, decode w =
    match w.toNat / 256 with
    | 0 => .rxb (BitVec.ofNat 8 (w.toNat % 256))
    | 1 => .flush (BitVec.ofNat 8 (w.toNat % 256))
    | 2 => .ckclr (BitVec.ofNat 8 (w.toNat % 256))
    | _ => .ckadd (BitVec.ofNat 8 (w.toNat % 256))

/-- Decode and encode agree on every command and on every word, the number a word stands for decodes as the opcode table
numbers it, a number that is no word is refused by name, and an instruction placed at the input port runs on the next
edge. -/
def Obligations.EncodeAndDecodeAgree : Prop :=
  (∀ i : Instr, decode (encode i) = i ∧ (encode i).toNat = i.op.toNat * 256 + i.data.toNat ∧
    ∀ nbits, 10 ≤ nbits → decodeTableWord nbits (encode i).toNat = some i ∧
      ∀ s : State, step (s.withFetchWord nbits (encode i).toNat) = exec i s) ∧
  (∀ w : CmdWord, encode (decode w) = w ∧ decodeNumber w.toNat = .ok (decode w)) ∧
  (∀ v : Nat, 1024 ≤ v → decodeNumber v = .error (.notACommandWord v))

/-- Words written out from R42 and the vectors of 95_test_vectors.md. -/
def Obligations.WrittenWordsDecode : Prop :=
  decode 0b00_10100000#10 = .rxb 0xA0 ∧ decode 0b01_00000000#10 = .flush 0 ∧ decode 0b01_11111111#10 = .flush 0xFF ∧
  decode 0b10_00110111#10 = .ckclr 0x37 ∧ decode 0b11_10000100#10 = .ckadd 0x84

/-! Edges -/

/-- R41: the fields of a word, its number, when it is accepted, that it is then one step, and that a word offered during a
reset has no effect. -/
def Obligations.AcceptedWordIsOneStep : Prop :=
  (∀ w : CmdWord, w.toNat = (opField w).toNat * 256 + (dataField w).toNat) ∧
  (∀ (s : State) (w : CmdWord) (rest : List PortIn),
    step (s.withInputs (⟨false, true, w⟩ :: rest)) = exec (decode w) (s.withInputs rest)) ∧
  (∀ (s : State) (v : Bool) (w : CmdWord) (rest : List PortIn),
    step (s.withInputs (⟨true, v, w⟩ :: rest)) = step (s.withInputs (⟨true, false, 0⟩ :: rest)))

/-- R113 with the values of R27: the edge with `rst = 1`, whatever else is offered. -/
def Obligations.ResetEdgeClearsEveryField : Prop :=
  ∀ (s : State) (v : Bool) (w : CmdWord) (rest : List PortIn), ∃ t,
    step (s.withInputs (⟨true, v, w⟩ :: rest)) = .next t ∧
    t.mode = .hunt ∧ t.saw = false ∧ t.pv = false ∧ t.pend = 0 ∧ t.n = 0 ∧ t.lh = 0 ∧ t.ll = 0 ∧ t.rid = 0 ∧
    t.t1 = 0 ∧ t.t0 = 0 ∧ t.racc = 0 ∧ t.tacc = 0 ∧
    t.out = none ∧ t.outValid = 0 ∧ t.outKind = 0 ∧ t.outByte = 0 ∧ t.outRec = 0 ∧ t.ckValue = 0 ∧
    t.withInputs [] = State.reset ∧ t.inputs = rest

/-- An edge with no command leaves the whole block as it is and presents no event (R33, R47). That the edges after the
queued inputs are idle is the model's choice (log 1). -/
def Obligations.IdleEdgeChangesNothing : Prop :=
  (∀ (s : State) (w : CmdWord) (rest : List PortIn),
    step (s.withInputs (⟨false, false, w⟩ :: rest)) = .next { s with out := none, inputs := rest }) ∧
  (∀ s : State, s.inputs = [] → step s = .next { s with out := none })

/-- R47, with R44's note that a BYTE event has the same `out_kind` as no event. -/
def Obligations.NoEventMeansZeroOutputs : Prop :=
  (∀ s : State, s.out = none → s.outValid = 0 ∧ s.outKind = 0 ∧ s.outByte = 0 ∧ s.outRec = 0) ∧
  (∀ (s : State) (w : CmdWord) (rest : List PortIn), ∃ t,
    step (s.withInputs (⟨false, false, w⟩ :: rest)) = .next t ∧ t.out = none) ∧
  (∀ (s : State) (v : Bool) (w : CmdWord) (rest : List PortIn), ∃ t,
    step (s.withInputs (⟨true, v, w⟩ :: rest)) = .next t ∧ t.out = none) ∧
  (∀ (s : State) (b : Byte), s.out = some (.byte b) → s.outValid = 1 ∧ s.outKind = 0)

/-- No state and no input stops the machine, over any number of edges (R98). -/
def Obligations.RunsNeverStop : Prop :=
  ∀ (k : Nat) (s : State), ∃ t, Host.Core.run Sys2Proof.core k s = .next t

/-- Commands run one at a time, in the order they are accepted, each on the state the one before it left (R35, R119). -/
def Obligations.QueuedCommandsRunInOrder : Prop :=
  ∀ (is : List Instr) (s : State) (rest : List PortIn),
    Host.Core.run Sys2Proof.core is.length (s.withInputs (commandEdges is ++ rest)) = execAll is (s.withInputs rest)

/-- Edges with no command change nothing a run shows or leaves, but for the event presented last (R33, R82). -/
def Obligations.IdleEdgesAreInvisible : Prop :=
  ∀ (es : List PortIn) (s : State),
    eventsOf es s = eventsOf (es.filter (fun e => e.rst || e.inValid)) s ∧
    present none (finalOf es s) = present none (finalOf (es.filter (fun e => e.rst || e.inValid)) s)

/-- A block that is sent nothing keeps its state for ever and reports nothing (R75, R111). -/
def Obligations.WaitingBlockKeepsItsState : Prop :=
  ∀ (k : Nat) (s : State), s.inputs = [] →
    Host.Core.run Sys2Proof.core (k + 1) s = .next { s with out := none } ∧ outputs k s = List.replicate k none

/-! The commands -/

/-- R70: RXB in HUNT. -/
def Obligations.RxbInHunt : Prop :=
  ∀ (b : Byte) (s : State), s.mode = .hunt →
    exec (.rxb b) s = .next
      (if s.saw = true ∧ b = 0xA2 then
        { s with mode := .body, saw := false, pv := false, pend := 0, n := 0, lh := 0, ll := 0, rid := 0, t1 := 0,
                 t0 := 0, racc := 0, out := none }
      else { s with saw := decide (b = 0xA0), out := none })

/-- R71 with the confirm step of R86: RXB in BODY. The record is that of `Obligations.RecordEqualsValidate`. -/
def Obligations.RxbInBody : Prop :=
  ∀ (b : Byte) (s : State), s.mode = .body →
    exec (.rxb b) s = .next
      (if s.pv = true ∧ s.pend = 0xB0 ∧ b = 0xB3 then
        { s with mode := .hunt, saw := false, pv := false, pend := 0, n := 0, lh := 0, ll := 0, rid := 0, t1 := 0,
                 t0 := 0, racc := 0, out := some (.frameEnd (record s)) }
      else if s.pv = true then
        { s with
          lh := if s.n = 0 then s.pend else s.lh
          ll := if s.n = 1 then s.pend else s.ll
          rid := if s.n = 2 then s.pend else s.rid
          racc := if 4 ≤ s.n.toNat then BitVec.ofNat 15 ((s.racc.toNat + s.t1.toNat) % 32768) else s.racc
          t1 := s.t0
          t0 := s.pend
          n := BitVec.ofNat 17 (min (s.n.toNat + 1) 131071)
          pend := b
          out := some (.byte s.pend) }
      else { s with pend := b, pv := true, out := none })

/-- R72: FLUSH, with every data byte. -/
def Obligations.FlushAbandonsTheFrame : Prop :=
  ∀ (d : Byte) (s : State),
    decode (BitVec.ofNat 10 (0x100 + d.toNat)) = .flush d ∧
    exec (.flush d) s = .next
      { s with mode := .hunt, saw := false, pv := false, pend := 0, n := 0, lh := 0, ll := 0, rid := 0, t1 := 0,
               t0 := 0, racc := 0, out := if s.mode = .body then some (.abort s.n) else none }

/-- R62: CKCLR, with every data byte. -/
def Obligations.CkclrClearsTheAccumulator : Prop :=
  ∀ (d : Byte) (s : State),
    decode (BitVec.ofNat 10 (0x200 + d.toNat)) = .ckclr d ∧
    exec (.ckclr d) s = .next { s with tacc := 0, out := none } ∧
    ({ s with tacc := 0, out := none } : State).ckValue = 0

/-- R63: CKADD. -/
def Obligations.CkaddAddsModulo : Prop :=
  ∀ (b : Byte) (s : State),
    decode (BitVec.ofNat 10 (0x300 + b.toNat)) = .ckadd b ∧
    exec (.ckadd b) s = .next { s with tacc := BitVec.ofNat 15 ((s.tacc.toNat + b.toNat) % 32768), out := none }

/-- R116: the ways in which reset and FLUSH differ, and that they agree in every other field. -/
def Obligations.ResetAndFlushCompared : Prop :=
  ∀ (s : State) (d : Byte) (v : Bool) (w : CmdWord) (rest : List PortIn), ∃ tr tf,
    step (s.withInputs (⟨true, v, w⟩ :: rest)) = .next tr ∧
    step (s.withInputs (PortIn.command (encode (.flush d)) :: rest)) = .next tf ∧
    tr.out = none ∧ tf.out = (if s.mode = .body then some (.abort s.n) else none) ∧
    tr.tacc = 0 ∧ tf.tacc = s.tacc ∧ tr = { tf with tacc := 0, out := none } ∧
    step (s.withInputs (⟨false, false, encode (.flush d)⟩ :: rest)) = .next { s with out := none, inputs := rest }

/-! Ports -/

/-- The port fields of each kind of event, and that the kind `11` is never shown (R44, R48). -/
def Obligations.EventPortsShowTheEvent : Prop :=
  (∀ (s : State) (b : Byte), s.out = some (.byte b) →
    s.outValid = 1 ∧ s.outKind = 0 ∧ s.outByte = b ∧ s.outRec = 0) ∧
  (∀ (s : State) (r : FrameRecord), s.out = some (.frameEnd r) →
    s.outValid = 1 ∧ s.outKind = 1 ∧ s.outByte = 0 ∧ s.outRec = packRecord r) ∧
  (∀ (s : State) (k : Count17), s.out = some (.abort k) →
    s.outValid = 1 ∧ s.outKind = 2 ∧ s.outByte = 0 ∧ s.outRec.toNat = k.toNat) ∧
  (∀ s : State, s.outKind ≠ 3)

/-- R45: the layout of `out_rec` in an END event. -/
def Obligations.EndRecordLayout : Prop :=
  ∀ (s : State) (r : FrameRecord), s.out = some (.frameEnd r) →
    s.outRec.extractLsb' 0 17 = r.bodyLen ∧ s.outRec.extractLsb' 17 17 = r.actLen ∧
    s.outRec.extractLsb' 34 16 = r.declLen ∧ s.outRec.extractLsb' 50 16 = r.declChk ∧
    s.outRec.extractLsb' 66 16 = r.compChk ∧ s.outRec.extractLsb' 82 8 = r.id ∧
    s.outRec.getLsbD 90 = r.idValid ∧ s.outRec.getLsbD 91 = r.runt ∧ s.outRec.getLsbD 92 = r.lenErr ∧
    s.outRec.getLsbD 93 = r.chkErr ∧ s.outRec.getLsbD 94 = r.ok

/-- R46: `ck_value` is the accumulator below a constant 0, in every state, so right after CKCLR and CKADD too. -/
def Obligations.CkValueShowsTheAccumulator : Prop :=
  (∀ s : State, s.ckValue.extractLsb' 0 15 = s.tacc ∧ s.ckValue.getLsbD 15 = false) ∧
  (∀ (s : State) (d : Byte), ∃ t, exec (.ckclr d) s = .next t ∧ t.ckValue = 0) ∧
  (∀ (s : State) (b : Byte), ∃ t, exec (.ckadd b) s = .next t ∧
    t.ckValue.toNat = (s.ckValue.toNat + b.toNat) % 32768)

/-- The codes of R99 for the END record the block forms and for the ABORT of FLUSH. -/
def Obligations.ErrorConditionsAreReported : Prop :=
  (∀ s : State,
    reports .runtBody (.frameEnd (record s)) = decide (s.n.toNat < 4) ∧
    reports .lengthMismatch (.frameEnd (record s)) = (record s).lenErr ∧
    reports .checksumMismatch (.frameEnd (record s)) = (record s).chkErr ∧
    (record s).ok = (!(record s).lenErr && !(record s).chkErr) ∧
    (s.n.toNat < 4 → (record s).lenErr = true ∧ (record s).chkErr = true) ∧
    (record s).bodyLen = s.n) ∧
  (∀ (s : State) (d : Byte), s.mode = .body → ∃ t e, exec (.flush d) s = .next t ∧ t.out = some e ∧
    reports .frameAbandoned e = true ∧ e = .abort s.n)

/-! The checksum -/

/-- R60: masking after each addition gives the sum modulo 2^15, and so does any accumulator of 15 bits or more. -/
def Obligations.ChecksumIsTheSumModulo : Prop :=
  ∀ l : List Byte,
    (checksum l).toNat = (l.map BitVec.toNat).sum % 32768 ∧
    ∀ w, 15 ≤ w → (l.foldl (fun (acc : BitVec w) b => acc + b.setWidth w) 0).toNat % 32768 = (checksum l).toNat

/-- What the checksum detects and what it does not (R65). -/
def Obligations.ChecksumDetection : Prop :=
  (∀ (l : List Byte) (i : Nat) (b : Byte), i < l.length → byteAt l i ≠ b → checksum (l.set i b) ≠ checksum l) ∧
  (∀ l m : List Byte, l.Perm m → checksum l = checksum m) ∧
  (∀ l m : List Byte, checksum (l ++ 0 :: m) = checksum (l ++ m)) ∧
  (∀ l m : List Byte, checksum l = checksum m ↔ (l.map BitVec.toNat).sum % 32768 = (m.map BitVec.toNat).sum % 32768)

/-- R64: CKCLR, then CKADD of each byte, with RXB and FLUSH anywhere between. -/
def Obligations.StandaloneChecksumOfTheAddedBytes : Prop :=
  ∀ (s : State) (d : Byte) (is : List Instr), NoClear is →
    (finalOf (commandEdges (.ckclr d :: is)) s).tacc = checksum (addedBytes is) ∧
    (finalOf (commandEdges (.ckclr d :: is)) s).ckValue.toNat = (checksum (addedBytes is)).toNat

/-- The checksum commands neither change nor read anything of the receive path, and the receive commands leave `tacc`
alone: with and without the checksum commands, and whatever `tacc` held, the events and the receive state are the same
(R35). -/
def Obligations.ChecksumCommandsDoNotReachTheReceiver : Prop :=
  ∀ (s t : State) (is : List Instr), SameReceiver s t →
    eventsOf (commandEdges is) s = eventsOf (commandEdges (is.filter isReceive)) t ∧
    SameReceiver (finalOf (commandEdges is) s) (finalOf (commandEdges (is.filter isReceive)) t) ∧
    (finalOf (commandEdges (is.filter isReceive)) t).tacc = t.tacc

/-! The frame checker -/

/-- R90: the checker fields after the confirms of a body, and that a declared checksum with bit 15 set never matches. -/
def Obligations.CheckerFieldsAfterConfirms : Prop :=
  ∀ (s : State) (c : List Byte), FrameClear s →
    CheckerHolds (c.foldl confirm s) c ∧
    (2 ≤ c.length → 0x80 ≤ (byteAt c (c.length - 2)).toNat → (record (c.foldl confirm s)).chkErr = true)

/-- R91: the record as its pseudocode forms it, and that it is the verdict of `Validate` for every body, with `body_len`
and `act_len` capped. -/
def Obligations.RecordEqualsValidate : Prop :=
  (∀ s : State, s.n.toNat < 4 → record s = ⟨s.n, 0, 0, 0, 0, 0, false, true, true, true, false⟩) ∧
  (∀ s : State, 4 ≤ s.n.toNat →
    (record s).bodyLen = s.n ∧ (record s).runt = false ∧
    (record s).declLen.toNat = s.lh.toNat * 256 + s.ll.toNat ∧
    (record s).declChk.toNat = s.t1.toNat * 256 + s.t0.toNat ∧
    (record s).compChk.toNat = s.racc.toNat ∧
    (record s).actLen.toNat = s.n.toNat - 4 ∧
    ((record s).lenErr = true ↔ s.lh.toNat * 256 + s.ll.toNat ≠ s.n.toNat - 4) ∧
    ((record s).chkErr = true ↔ s.t1.toNat * 256 + s.t0.toNat ≠ s.racc.toNat) ∧
    ((record s).ok = true ↔ (record s).lenErr = false ∧ (record s).chkErr = false) ∧
    (record s).id = (if 5 ≤ s.n.toNat then s.rid else 0) ∧
    ((record s).idValid = true ↔ (record s).ok = true ∧ 5 ≤ s.n.toNat)) ∧
  (∀ (s : State) (c : List Byte), FrameClear s → record (c.foldl confirm s) = expectedRecord c)

/-- R89: saturation changes no verdict bit, and every body of 65540 bytes or more fails the length check. -/
def Obligations.SaturationChangesNoVerdict : Prop :=
  ∀ (s : State) (c : List Byte), FrameClear s →
    let r := record (c.foldl confirm s)
    (65540 ≤ c.length → r.lenErr = true ∧ r.ok = false) ∧
    (131071 ≤ c.length → r.bodyLen.toNat = 131071 ∧ r.actLen.toNat = 131067) ∧
    (c.length < 131071 → r.bodyLen.toNat = c.length ∧ r.actLen.toNat = (validate c).actLen) ∧
    r.runt = (validate c).runt ∧ r.lenErr = (validate c).lenErr ∧ r.chkErr = (validate c).chkErr ∧
    r.ok = (validate c).ok ∧ r.idValid = (validate c).idValid ∧ r.compChk = (validate c).compChk

/-- R88: the declared length is compared, not range-checked. -/
def Obligations.DeclaredLengthRangeIsNotChecked : Prop :=
  ∀ (s : State) (c : List Byte), FrameClear s → 4 ≤ c.length →
    1024 ≤ pairValue (byteAt c 0) (byteAt c 1) → pairValue (byteAt c 0) (byteAt c 1) = c.length - 4 →
    pairValue (byteAt c (c.length - 2)) (byteAt c (c.length - 1)) = (checksum (payloadOf c)).toNat →
    (record (c.foldl confirm s)).ok = true

/-- Damage to the `LEN` bytes of a valid body alone is a length error and not a checksum error (R96). -/
def Obligations.DamagedLengthIsALengthError : Prop :=
  ∀ (s : State) (c : List Byte) (h l : Byte), FrameClear s → (validate c).ok = true →
    (h ≠ byteAt c 0 ∨ l ≠ byteAt c 1) →
    let r := record ((h :: l :: c.drop 2).foldl confirm s)
    r.lenErr = true ∧ r.chkErr = false ∧ r.ok = false

/-! Frames on the wire -/

/-- R50: the frame of a payload, field by field. -/
def Obligations.EncodedFrameLayout : Prop :=
  (∀ p : List Byte, p.length < 1024 → ∃ f, encodeRef p = some f ∧ f.length = 8 + p.length ∧
    8 ≤ f.length ∧ f.length ≤ 1031 ∧
    byteAt f 0 = 0xA0 ∧ byteAt f 1 = 0xA2 ∧ pairValue (byteAt f 2) (byteAt f 3) = p.length ∧
    slice f 4 (4 + p.length) = p ∧
    pairValue (byteAt f (4 + p.length)) (byteAt f (5 + p.length)) = (checksum p).toNat ∧
    byteAt f (6 + p.length) = 0xB0 ∧ byteAt f (7 + p.length) = 0xB3) ∧
  (∀ p : List Byte, 1024 ≤ p.length → encodeRef p = none)

/-- Bytes in HUNT in which no start marker is completed are dropped with no event, end markers among them (R70, R76). -/
def Obligations.HuntDropsBytesWithoutAStart : Prop :=
  ∀ (s : State) (xs : List Byte), s.mode = .hunt → NoStart (huntTail s ++ xs) →
    eventsOf (feed xs) s = [] ∧ (finalOf (feed xs) s).mode = .hunt ∧
    ((finalOf (feed xs) s).saw = true ↔ (huntTail s ++ xs).getLast? = some 0xA0)

/-- A body that holds no END, between its markers: what the event port shows after each edge, byte by byte, and the clear
state at the end (R54, R71, R125). -/
def Obligations.FramedBodyTimeline : Prop :=
  ∀ (s : State) (c : List Byte), s.mode = .hunt → NoEnd c →
    outputsOf (feed (framed c)) s =
      [none, none, none] ++ c.map (fun b => some (.byte b)) ++ [some (.frameEnd (expectedRecord c))] ∧
    FreshDecoder (finalOf (feed (framed c)) s) ∧ (finalOf (feed (framed c)) s).tacc = s.tacc

/-- R94: one flipped payload bit is a checksum error, provided it makes no END. -/
def Obligations.FlippedPayloadBitIsRejected : Prop :=
  ∀ (s : State) (c : List Byte) (i k : Nat), s.mode = .hunt → 2 ≤ i → i < c.length - 2 → k < 8 →
    (validate c).chkErr = false → NoEnd (c.set i (byteAt c i ^^^ (1#8 <<< k))) →
    ∃ r, eventsOf (feed (framed (c.set i (byteAt c i ^^^ (1#8 <<< k))))) s =
        (c.set i (byteAt c i ^^^ (1#8 <<< k))).map Event.byte ++ [.frameEnd r] ∧
      r.chkErr = true ∧ r.ok = false ∧ r.declChk = (validate c).declChk ∧
      ((validate c).ok = true → r.lenErr = false)

/-- R74: the two markers never begin at the same index or at each other's second byte, so one of the two cases of
`RefFeed` holds and the body it emits is well defined. -/
def Obligations.FirstMarkersNeverCollide : Prop :=
  ∀ (l : List Byte) (s e : Nat),
    findFirst Config.startMarker l = some s → findFirst Config.endMarker l = some e →
    e + 2 ≤ s ∨ s + 2 ≤ e

/-- R39: the source's loop gives the same buffer and bodies however the stream is cut into chunks, byte by byte too. -/
def Obligations.ChunkingIsInvisible : Prop :=
  ∀ cs : List (List Byte),
    refFeedChunks [] cs = refFeed [] cs.flatten ∧
    refFeedChunks [] cs = refFeedChunks [] (cs.flatten.map (fun b => [b]))

/-- One RXB keeps the relation of R77, and ends the bodies the source's loop emits on that byte. -/
def Obligations.RxbKeepsTheAbstraction : Prop :=
  ∀ (s : State) (buf c : List Byte) (b : Byte), Inv s → Abstracts s buf c → ∃ t,
    exec (.rxb b) s = .next t ∧ Abstracts t (refFeed buf [b]).1 (confirmedAfter c t.out) ∧
    (refFeed buf [b]).2 = bodiesEnded c t.out

/-- R77: the abstraction relation after every stream, in any chunking, from reset or FLUSH. -/
def Obligations.AbstractionHoldsOnEveryStream : Prop :=
  ∀ (s : State) (cs : List (List Byte)), FreshDecoder s →
    Abstracts (finalOf (feed cs.flatten) s) (refFeedChunks [] cs).1 (confirmedBy (outputsOf (feed cs.flatten) s))

/-- R78: the END events and the bodies before them are the source's bodies, each on the same byte, and each record is the
verdict on its body. -/
def Obligations.BlockEmitsTheReferenceBodies : Prop :=
  ∀ (s : State) (xs : List Byte), FreshDecoder s →
    bodiesOf (eventsOf (feed xs) s) = (refFeed [] xs).2 ∧
    recordsOf (eventsOf (feed xs) s) = (refFeed [] xs).2.map expectedRecord ∧
    ∀ b : Byte, (∃ r, (outputsOf (feed (xs ++ [b])) s).getLast? = some (some (.frameEnd r))) ↔
      (refFeed (refFeed [] xs).1 [b]).2 ≠ []

/-- When END occurs in the body of an encoded frame (R79). -/
def Obligations.EncodedBodyHoldsEndExactlyWhen : Prop :=
  ∀ p : List Byte, p.length < 1024 →
    (¬ NoEnd (encodedBody p) ↔
      ¬ NoEnd p ∨ (p.length = 176 ∨ p.length = 432 ∨ p.length = 688 ∨ p.length = 944) ∧ p.head? = some 0xB3)

/-- An END inside an encoded frame cuts it: the bytes before it are emitted as a failing frame, and the rest is scanned
afresh in HUNT (R79). -/
def Obligations.EndInsideAFrameCutsIt : Prop :=
  ∀ (s : State) (p : List Byte) (j : Nat), s.mode = .hunt → p.length < 1024 →
    findFirst Config.endMarker (encodedBody p) = some j →
    ∃ r, eventsOf (feed (framed (encodedBody p))) s =
        ((encodedBody p).take j).map Event.byte ++ [.frameEnd r] ++
          eventsOf (feed ((encodedBody p).drop (j + 2) ++ markerBytes Config.endMarker)) State.reset ∧
      r.lenErr = true ∧ r.ok = false ∧ (r.runt = true ↔ j < 4)

/-- R80's resynchronization property with its exact conditions, from any HUNT state. Where `saw = 1` the byte 0xA0 before
the garbage counts with it: the model's reading of R80's 'any saw' under R70 (log 4). -/
def Obligations.ResyncYieldsBothFramesExactlyWhen : Prop :=
  ∀ (s : State) (garbage f1 f2 : List Byte), s.mode = .hunt →
    (bodiesOf (eventsOf (feed (garbage ++ framed f1 ++ framed f2)) s) = [f1, f2] ↔
      NoStart (huntTail s ++ garbage) ∧ NoEnd f1 ∧ NoEnd f2)

/-- R81: feeding an encoded payload gives its body and a passing record exactly when END does not occur in the body, and
otherwise the first END fails. -/
def Obligations.RoundTripExactlyWhen : Prop :=
  ∀ (s : State) (p : List Byte), s.mode = .hunt → p.length < 1024 →
    ((∃ r, eventsOf (feed (framed (encodedBody p))) s = (encodedBody p).map Event.byte ++ [.frameEnd r] ∧
        r.ok = true ∧ r.declLen.toNat = p.length ∧ r.actLen.toNat = p.length ∧
        r.declChk.toNat = (checksum p).toNat ∧ r.compChk.toNat = (checksum p).toNat ∧
        r.idValid = decide (1 ≤ p.length) ∧ (1 ≤ p.length → r.id = byteAt p 0)) ↔ NoEnd (encodedBody p)) ∧
    (¬ NoEnd (encodedBody p) →
      ∃ r, firstRecord (eventsOf (feed (framed (encodedBody p))) s) = some r ∧ r.ok = false)

/-- After FLUSH the block behaves as one just reset, whatever stood before: nothing of the old stream is carried over
(R72, R84). -/
def Obligations.FlushStartsAFreshStream : Prop :=
  ∀ (s : State) (d : Byte) (is : List Instr), ∃ t,
    exec (.flush d) s = .next t ∧ FreshDecoder t ∧ t.tacc = s.tacc ∧
    eventsOf (commandEdges is) t = eventsOf (commandEdges is) State.reset ∧
    SameReceiver (finalOf (commandEdges is) t) (finalOf (commandEdges is) State.reset)

/-! Invariants -/

/-- Every step keeps the invariant. -/
def Obligations.StepKeepsInv : Prop :=
  ∀ s : State, Inv s → ∃ t, step s = .next t ∧ Inv t

/-- The reset state has each invariant that every step keeps, whatever inputs are to come, with no frame in progress and a
consumer that has seen nothing (log 8). -/
def Obligations.ResetHasInv : Prop :=
  ∀ es : List PortIn, Inv (State.reset.withInputs es) ∧
    HistoryAgrees (State.reset.withInputs es) FrameHistory.none ∧
    ConsumerAgrees (State.reset.withInputs es) FrameHistory.none Consumer.fresh

/-- Every step keeps the block's agreement with what was received and emitted since START (R28 I4 and I5, R90). -/
def Obligations.StepKeepsTheFrameHistory : Prop :=
  ∀ (s : State) (h : FrameHistory), Inv s → HistoryAgrees s h → ∃ t,
    step s = .next t ∧ HistoryAgrees t (historyAfter s (nextEdge s) t h)

/-- Every step, with the consumer's cycle beside it, keeps the consumer in agreement with the block (R93, R121; the
consumer beside the machine is the model's choice, log 8). -/
def Obligations.StepKeepsTheConsumerInAgreement : Prop :=
  ∀ (s : State) (h : FrameHistory) (c : Consumer), Inv s → HistoryAgrees s h → ConsumerAgrees s h c → ∃ t,
    step s = .next t ∧
    ConsumerAgrees t (historyAfter s (nextEdge s) t h) (c.cycle (nextEdge s).rst t.out)

/-- R28: I1 to I6 in every state reachable from reset, over any edges. What was received and what was emitted since the
START was detected is the run's own history. -/
def Obligations.ReachableStatesKeepTheListedInvariants : Prop :=
  ∀ es : List PortIn,
    let s := finalOf es State.reset
    let h := historyOf es State.reset
    (s.mode = .hunt → s.pv = false ∧ s.pend = 0) ∧
    (s.mode = .body → s.saw = false) ∧
    (s.n.toNat ≤ 131071 ∧ s.racc.toNat < 2 ^ 15 ∧ s.tacc.toNat < 2 ^ 15) ∧
    (s.mode = .body → s.n.toNat = min h.emitted.length 131071) ∧
    (s.mode = .body → s.pv = false → h.received = [] ∧ s.n = 0) ∧
    (s.mode = .body → h.received = h.emitted ++ heldBytes s) ∧
    (s.mode = .body → s.pv = true → s.pend = 0xB0 →
      ∀ b : Byte, ∃ t, exec (.rxb b) s = .next t ∧ ((∃ r, t.out = some (.frameEnd r)) ↔ b = 0xB3))

/-! The consumer -/

/-- The consumer's pending body is, in BODY, the bytes emitted since START, and nothing in HUNT, over any edges from reset
(R121; the consumer beside the machine is the model's choice, log 8). -/
def Obligations.ConsumerHoldsTheEmittedBytes : Prop :=
  ∀ es : List PortIn,
    let p := consume es (State.reset, Consumer.fresh)
    p.1 = finalOf es State.reset ∧
    (p.1.mode = .hunt → p.2.pending = []) ∧
    (p.1.mode = .body → p.2.pending = (historyOf es State.reset).emitted ∧
      p.1.n.toNat = min p.2.pending.length 131071) ∧
    (p.1.mode = .body → p.1.pv = false → p.2.pending = [])

/-- A consumer that keeps its duties delivers only bodies whose length and checksum verify, with the right id, whatever
the environment drives (R93, R121; the consumer beside the machine is the model's choice, log 8). -/
def Obligations.ConsumerDeliversOnlyValidBodies : Prop :=
  ∀ (s : State) (es : List PortIn), s.mode = .hunt →
    ∀ d ∈ (consume es (s, Consumer.fresh)).2.delivered, ValidDelivery d

/-- On a byte stream it delivers exactly the source's bodies that pass the source's validator, in order (R78, R93,
R121; the consumer beside the machine is the model's choice, log 8). -/
def Obligations.ConsumerDeliversTheValidReferenceBodies : Prop :=
  ∀ (s : State) (xs : List Byte), FreshDecoder s →
    (consume (feed xs) (s, Consumer.fresh)).2.delivered.map Delivery.body =
      (refFeed [] xs).2.filter (fun b => (validate b).ok)

/-- A FRAME line of the test syntax, run from reset, delivers its payload, where the encoded body holds no END (R58, R81,
R121; the consumer beside the machine is the model's choice, log 8). -/
def Obligations.FrameLineDeliversItsPayload : Prop :=
  ∀ p : List Byte, p.length < 1024 → NoEnd (encodedBody p) → ∃ es,
    (AsmLine.frame p).expand = some es ∧
    (consume es (State.reset, Consumer.fresh)).2.delivered = [⟨encodedBody p, p.head?⟩] ∧
    messageOf (encodedBody p) = (p.head?, p.tail)
end

