-- ==== Sys2Proof/Laws/State.lean ====
section
/-! SUPPORT. One lemma for each field under each shared update of the state, so that no proof unfolds a record update. -/

namespace Sys2Proof.Machine

variable (s : State)

/-! `present` -/

@[simp] theorem present_mode (e : Option Event) : (present e s).mode = s.mode := rfl
@[simp] theorem present_saw (e : Option Event) : (present e s).saw = s.saw := rfl
@[simp] theorem present_pv (e : Option Event) : (present e s).pv = s.pv := rfl
@[simp] theorem present_pend (e : Option Event) : (present e s).pend = s.pend := rfl
@[simp] theorem present_n (e : Option Event) : (present e s).n = s.n := rfl
@[simp] theorem present_lh (e : Option Event) : (present e s).lh = s.lh := rfl
@[simp] theorem present_ll (e : Option Event) : (present e s).ll = s.ll := rfl
@[simp] theorem present_rid (e : Option Event) : (present e s).rid = s.rid := rfl
@[simp] theorem present_t1 (e : Option Event) : (present e s).t1 = s.t1 := rfl
@[simp] theorem present_t0 (e : Option Event) : (present e s).t0 = s.t0 := rfl
@[simp] theorem present_racc (e : Option Event) : (present e s).racc = s.racc := rfl
@[simp] theorem present_tacc (e : Option Event) : (present e s).tacc = s.tacc := rfl
@[simp] theorem present_out (e : Option Event) : (present e s).out = e := rfl
@[simp] theorem present_inputs (e : Option Event) : (present e s).inputs = s.inputs := rfl

/-! `enterMode` -/

@[simp] theorem enterMode_mode (m : Mode) : (enterMode m s).mode = m := rfl
@[simp] theorem enterMode_saw (m : Mode) : (enterMode m s).saw = false := rfl
@[simp] theorem enterMode_pv (m : Mode) : (enterMode m s).pv = s.pv := rfl
@[simp] theorem enterMode_pend (m : Mode) : (enterMode m s).pend = s.pend := rfl
@[simp] theorem enterMode_n (m : Mode) : (enterMode m s).n = s.n := rfl
@[simp] theorem enterMode_lh (m : Mode) : (enterMode m s).lh = s.lh := rfl
@[simp] theorem enterMode_ll (m : Mode) : (enterMode m s).ll = s.ll := rfl
@[simp] theorem enterMode_rid (m : Mode) : (enterMode m s).rid = s.rid := rfl
@[simp] theorem enterMode_t1 (m : Mode) : (enterMode m s).t1 = s.t1 := rfl
@[simp] theorem enterMode_t0 (m : Mode) : (enterMode m s).t0 = s.t0 := rfl
@[simp] theorem enterMode_racc (m : Mode) : (enterMode m s).racc = s.racc := rfl
@[simp] theorem enterMode_tacc (m : Mode) : (enterMode m s).tacc = s.tacc := rfl
@[simp] theorem enterMode_out (m : Mode) : (enterMode m s).out = s.out := rfl
@[simp] theorem enterMode_inputs (m : Mode) : (enterMode m s).inputs = s.inputs := rfl

/-! `clearFrame` -/

@[simp] theorem clearFrame_mode : (clearFrame s).mode = s.mode := rfl
@[simp] theorem clearFrame_saw : (clearFrame s).saw = s.saw := rfl
@[simp] theorem clearFrame_pv : (clearFrame s).pv = false := rfl
@[simp] theorem clearFrame_pend : (clearFrame s).pend = 0 := rfl
@[simp] theorem clearFrame_n : (clearFrame s).n = 0 := rfl
@[simp] theorem clearFrame_lh : (clearFrame s).lh = 0 := rfl
@[simp] theorem clearFrame_ll : (clearFrame s).ll = 0 := rfl
@[simp] theorem clearFrame_rid : (clearFrame s).rid = 0 := rfl
@[simp] theorem clearFrame_t1 : (clearFrame s).t1 = 0 := rfl
@[simp] theorem clearFrame_t0 : (clearFrame s).t0 = 0 := rfl
@[simp] theorem clearFrame_racc : (clearFrame s).racc = 0 := rfl
@[simp] theorem clearFrame_tacc : (clearFrame s).tacc = s.tacc := rfl
@[simp] theorem clearFrame_out : (clearFrame s).out = s.out := rfl
@[simp] theorem clearFrame_inputs : (clearFrame s).inputs = s.inputs := rfl

/-! `confirm` -/

@[simp] theorem confirm_mode (p : Byte) : (confirm s p).mode = s.mode := rfl
@[simp] theorem confirm_saw (p : Byte) : (confirm s p).saw = s.saw := rfl
@[simp] theorem confirm_pv (p : Byte) : (confirm s p).pv = s.pv := rfl
@[simp] theorem confirm_pend (p : Byte) : (confirm s p).pend = s.pend := rfl
@[simp] theorem confirm_n (p : Byte) : (confirm s p).n = countUp s.n := rfl
@[simp] theorem confirm_lh (p : Byte) : (confirm s p).lh = if s.n.toNat = 0 then p else s.lh := rfl
@[simp] theorem confirm_ll (p : Byte) : (confirm s p).ll = if s.n.toNat = 1 then p else s.ll := rfl
@[simp] theorem confirm_rid (p : Byte) : (confirm s p).rid = if s.n.toNat = 2 then p else s.rid := rfl
@[simp] theorem confirm_t1 (p : Byte) : (confirm s p).t1 = s.t0 := rfl
@[simp] theorem confirm_t0 (p : Byte) : (confirm s p).t0 = p := rfl
@[simp] theorem confirm_racc (p : Byte) : (confirm s p).racc = if 4 ≤ s.n.toNat then accumulate s.racc s.t1 else s.racc := rfl
@[simp] theorem confirm_tacc (p : Byte) : (confirm s p).tacc = s.tacc := rfl
@[simp] theorem confirm_out (p : Byte) : (confirm s p).out = s.out := rfl
@[simp] theorem confirm_inputs (p : Byte) : (confirm s p).inputs = s.inputs := rfl

/-! `consumeEdge` -/

@[simp] theorem consumeEdge_mode : (consumeEdge s).mode = s.mode := rfl
@[simp] theorem consumeEdge_saw : (consumeEdge s).saw = s.saw := rfl
@[simp] theorem consumeEdge_pv : (consumeEdge s).pv = s.pv := rfl
@[simp] theorem consumeEdge_pend : (consumeEdge s).pend = s.pend := rfl
@[simp] theorem consumeEdge_n : (consumeEdge s).n = s.n := rfl
@[simp] theorem consumeEdge_lh : (consumeEdge s).lh = s.lh := rfl
@[simp] theorem consumeEdge_ll : (consumeEdge s).ll = s.ll := rfl
@[simp] theorem consumeEdge_rid : (consumeEdge s).rid = s.rid := rfl
@[simp] theorem consumeEdge_t1 : (consumeEdge s).t1 = s.t1 := rfl
@[simp] theorem consumeEdge_t0 : (consumeEdge s).t0 = s.t0 := rfl
@[simp] theorem consumeEdge_racc : (consumeEdge s).racc = s.racc := rfl
@[simp] theorem consumeEdge_tacc : (consumeEdge s).tacc = s.tacc := rfl
@[simp] theorem consumeEdge_out : (consumeEdge s).out = s.out := rfl
@[simp] theorem consumeEdge_inputs : (consumeEdge s).inputs = s.inputs.tail := rfl

/-! `withInputs` -/

@[simp] theorem withInputs_mode (es : List PortIn) : (s.withInputs es).mode = s.mode := rfl
@[simp] theorem withInputs_saw (es : List PortIn) : (s.withInputs es).saw = s.saw := rfl
@[simp] theorem withInputs_pv (es : List PortIn) : (s.withInputs es).pv = s.pv := rfl
@[simp] theorem withInputs_pend (es : List PortIn) : (s.withInputs es).pend = s.pend := rfl
@[simp] theorem withInputs_n (es : List PortIn) : (s.withInputs es).n = s.n := rfl
@[simp] theorem withInputs_lh (es : List PortIn) : (s.withInputs es).lh = s.lh := rfl
@[simp] theorem withInputs_ll (es : List PortIn) : (s.withInputs es).ll = s.ll := rfl
@[simp] theorem withInputs_rid (es : List PortIn) : (s.withInputs es).rid = s.rid := rfl
@[simp] theorem withInputs_t1 (es : List PortIn) : (s.withInputs es).t1 = s.t1 := rfl
@[simp] theorem withInputs_t0 (es : List PortIn) : (s.withInputs es).t0 = s.t0 := rfl
@[simp] theorem withInputs_racc (es : List PortIn) : (s.withInputs es).racc = s.racc := rfl
@[simp] theorem withInputs_tacc (es : List PortIn) : (s.withInputs es).tacc = s.tacc := rfl
@[simp] theorem withInputs_out (es : List PortIn) : (s.withInputs es).out = s.out := rfl
@[simp] theorem withInputs_inputs (es : List PortIn) : (s.withInputs es).inputs = es := rfl

/-! Updates of the input queue alone -/

@[simp] theorem withInputs_withInputs (es fs : List PortIn) : (s.withInputs es).withInputs fs = s.withInputs fs := rfl
@[simp] theorem withInputs_self : s.withInputs s.inputs = s := rfl
@[simp] theorem consumeEdge_withInputs_cons (e : PortIn) (es : List PortIn) :
    consumeEdge (s.withInputs (e :: es)) = s.withInputs es := rfl
@[simp] theorem nextEdge_withInputs_cons (e : PortIn) (es : List PortIn) :
    nextEdge (s.withInputs (e :: es)) = e := rfl
@[simp] theorem nextEdge_withInputs_nil : nextEdge (s.withInputs []) = PortIn.idle := rfl
@[simp] theorem resetEdge_withInputs (es : List PortIn) : resetEdge (s.withInputs es) = State.reset.withInputs es := rfl
@[simp] theorem idleEdge_withInputs (es : List PortIn) :
    idleEdge (s.withInputs es) = (present none s).withInputs es := rfl
@[simp] theorem clearFrame_withInputs (es : List PortIn) :
    clearFrame (s.withInputs es) = (clearFrame s).withInputs es := rfl
@[simp] theorem record_withInputs (es : List PortIn) : record (s.withInputs es) = record s := rfl

end Sys2Proof.Machine
end

