-- ==== Sys2Proof/Laws/Ops.lean ====
section
/-! SUPPORT. What each shared operation and flag computes, said once in arithmetic and logic. -/

namespace Sys2Proof.Machine

theorem zext15_toNat (b : Byte) : (zext15 b).toNat = b.toNat := by
  have := b.isLt
  simp only [zext15, BitVec.toNat_setWidth]
  omega

theorem zext16_toNat (a : Sum15) : (zext16 a).toNat = a.toNat := by
  have := a.isLt
  simp only [zext16, BitVec.toNat_setWidth]
  omega

theorem zext17_toNat (h : Half) : (zext17 h).toNat = h.toNat := by
  have := h.isLt
  simp only [zext17, BitVec.toNat_setWidth]
  omega

theorem bigEndian_toNat (hi lo : Byte) : (bigEndian hi lo).toNat = pairValue hi lo := by
  have := hi.isLt
  have := lo.isLt
  simp only [bigEndian, BitVec.toNat_ofNat, pairValue]
  omega

theorem pairValue_inj {a b c d : Byte} (h : pairValue a b = pairValue c d) : a = c ∧ b = d := by
  have := b.isLt
  have := d.isLt
  simp only [pairValue] at h
  constructor <;> apply BitVec.eq_of_toNat_eq <;> omega

theorem accumulate_toNat (a : Sum15) (b : Byte) : (accumulate a b).toNat = (a.toNat + b.toNat) % 32768 := by
  simp [accumulate, BitVec.toNat_add, zext15_toNat]

theorem countUp_toNat (n : Count17) : (countUp n).toNat = min (n.toNat + 1) Config.nmax := by
  simp only [countUp, BitVec.toNat_ofNat, Config.nmax]
  omega

theorem completesStart_iff (saw : Bool) (b : Byte) : completesStart saw b = true ↔ saw = true ∧ b = 0xA2 := by
  simp [completesStart, Config.startMarker]

theorem beginsStart_iff (b : Byte) : beginsStart b = true ↔ b = 0xA0 := by
  simp [beginsStart, Config.startMarker]

theorem completesEnd_iff (pv : Bool) (pend b : Byte) :
    completesEnd pv pend b = true ↔ pv = true ∧ pend = 0xB0 ∧ b = 0xB3 := by
  simp [completesEnd, Config.endMarker, and_assoc]

theorem isRunt_iff (n : Count17) : isRunt n = true ↔ n.toNat < 4 :=
  decide_eq_true_iff

theorem hasId_iff (n : Count17) : hasId n = true ↔ 5 ≤ n.toNat :=
  decide_eq_true_iff

theorem passes_iff (l c : Bool) : passes l c = true ↔ l = false ∧ c = false := by
  simp [passes]

theorem lengthError_iff (d : Half) (a : Count17) : lengthError d a = true ↔ d.toNat ≠ a.toNat := by
  rw [← zext17_toNat, ne_eq, ← BitVec.toNat_eq]
  simp [lengthError]

theorem checksumError_iff (d c : Half) : checksumError d c = true ↔ d.toNat ≠ c.toNat := by
  rw [ne_eq, ← BitVec.toNat_eq]
  simp [checksumError]

/-- The whole effect of `ClearFrame` on the frame fields (R73). -/
theorem clearFrame_frameClear (s : State) : FrameClear (clearFrame s) :=
  ⟨rfl, rfl, rfl, rfl, rfl, rfl, rfl, rfl, rfl⟩

theorem frameClear_enterMode {s : State} (m : Mode) (h : FrameClear s) : FrameClear (enterMode m s) :=
  ⟨h.pv, h.pend, h.n, h.lh, h.ll, h.rid, h.t1, h.t0, h.racc⟩

theorem frameClear_present {s : State} (e : Option Event) (h : FrameClear s) : FrameClear (present e s) :=
  ⟨h.pv, h.pend, h.n, h.lh, h.ll, h.rid, h.t1, h.t0, h.racc⟩

/-- `Record` takes one of two forms (R91). -/
theorem record_cases (s : State) :
    (s.n.toNat < 4 ∧ record s = runtRecord s.n) ∨
    (4 ≤ s.n.toNat ∧
      record s = fullRecord s.n (bigEndian s.lh s.ll) (bigEndian s.t1 s.t0) (zext16 s.racc) s.rid) := by
  by_cases h : s.n.toNat < 4
  · exact .inl ⟨h, by simp [record, (isRunt_iff _).2 h]⟩
  · have h' : isRunt s.n = false := by rw [Bool.eq_false_iff, ne_eq, isRunt_iff]; exact h
    exact .inr ⟨by omega, by simp [record, h']⟩

end Sys2Proof.Machine
end

