-- ==== Sys2Proof/Laws/Exec.lean ====
section
/-! SUPPORT. What each command can do, said once: case lemmas for the two halves of RXB, and the shape of `exec`. -/

namespace Sys2Proof.Machine

theorem rxbHunt_cases (b : Byte) (s : State) :
    (completesStart s.saw b = true ∧ rxbHunt b s = present none (enterMode .body (clearFrame s))) ∨
    (completesStart s.saw b = false ∧ rxbHunt b s = present none { s with saw := beginsStart b }) := by
  cases h : completesStart s.saw b
  · exact .inr ⟨rfl, by simp [rxbHunt, h]⟩
  · exact .inl ⟨rfl, by simp [rxbHunt, h]⟩

theorem rxbBody_cases (b : Byte) (s : State) :
    (completesEnd s.pv s.pend b = true ∧
      rxbBody b s = present (some (.frameEnd (record s))) (enterMode .hunt (clearFrame s))) ∨
    (completesEnd s.pv s.pend b = false ∧ s.pv = true ∧
      rxbBody b s = present (some (.byte s.pend)) { confirm s s.pend with pend := b }) ∨
    (s.pv = false ∧ rxbBody b s = present none { s with pend := b, pv := true }) := by
  cases h : completesEnd s.pv s.pend b
  · cases hp : s.pv
    · exact .inr (.inr ⟨rfl, by simp [rxbBody, completesEnd, hp]⟩)
    · exact .inr (.inl ⟨rfl, rfl, by
        have h' : completesEnd true s.pend b = false := by rw [← hp]; exact h
        simp [rxbBody, h', hp]⟩)
  · exact .inl ⟨rfl, by simp [rxbBody, h]⟩

/-- The state a command leaves: `exec` answers it (`exec_eq_effect`). -/
def effect (i : Instr) (s : State) : State :=
  match i with
  | .rxb b => match s.mode with
    | .hunt => rxbHunt b s
    | .body => rxbBody b s
  | .flush _ => present (flushEvent s) (enterMode .hunt (clearFrame s))
  | .ckclr _ => present none { s with tacc := 0 }
  | .ckadd b => present none { s with tacc := accumulate s.tacc b }

theorem exec_eq_effect (i : Instr) (s : State) : exec i s = .next (effect i s) := by
  cases i with
  | rxb b =>
    simp only [exec, execRxb, effect]
    split <;> simp_all
  | flush d => rfl
  | ckclr d => rfl
  | ckadd b => rfl

theorem effect_rxb_hunt {s : State} (h : s.mode = .hunt) (b : Byte) : effect (.rxb b) s = rxbHunt b s := by
  simp [effect, h]

theorem effect_rxb_body {s : State} (h : s.mode = .body) (b : Byte) : effect (.rxb b) s = rxbBody b s := by
  simp [effect, h]

/-- A command neither reads nor writes the inputs to come. -/
theorem effect_withInputs (i : Instr) (s : State) (es : List PortIn) :
    effect i (s.withInputs es) = (effect i s).withInputs es := by
  cases i with
  | rxb b =>
    cases h : s.mode
    · rw [effect_rxb_hunt (by simpa using h), effect_rxb_hunt h]
      cases hc : completesStart s.saw b <;> simp [rxbHunt, hc] <;> rfl
    · rw [effect_rxb_body (by simpa using h), effect_rxb_body h]
      cases hc : completesEnd s.pv s.pend b <;> cases hp : s.pv <;> simp_all [rxbBody] <;> rfl
  | flush d => rfl
  | ckclr d => rfl
  | ckadd b => rfl

theorem effect_inputs (i : Instr) (s : State) : (effect i s).inputs = s.inputs := by
  have h := effect_withInputs i s s.inputs
  rw [withInputs_self] at h
  rw [h, withInputs_inputs]

end Sys2Proof.Machine
end

