-- ==== Sys2Proof/Laws/PerInstr.lean ====
section
/-! SUPPORT. Facts about each command as syntax, one lemma for each constructor. -/

namespace Sys2Proof.Laws

/-- The command is legal (R48), and its word holds its op and its data byte in their fields (R41). -/
def EncodesFields.Statement (i : Instr) : Prop :=
  i.wellFormed = true ∧ opField (encode i) = i.op ∧ dataField (encode i) = i.data

theorem encode_toNat (i : Instr) : (encode i).toNat = i.op.toNat * 256 + i.data.toNat := by
  have := i.op.isLt
  have := i.data.isLt
  simp only [encode, BitVec.toNat_ofNat]
  omega

theorem opField_encode (i : Instr) : opField (encode i) = i.op := by
  have := i.op.isLt
  have := i.data.isLt
  apply BitVec.eq_of_toNat_eq
  simp only [opField, BitVec.extractLsb'_toNat, encode_toNat, Nat.shiftRight_eq_div_pow]
  omega

theorem dataField_encode (i : Instr) : dataField (encode i) = i.data := by
  have := i.data.isLt
  apply BitVec.eq_of_toNat_eq
  simp only [dataField, BitVec.extractLsb'_toNat, encode_toNat, Nat.shiftRight_eq_div_pow]
  omega

theorem EncodesFields.rxb (d : Byte) : EncodesFields.Statement (.rxb d) :=
  ⟨rfl, opField_encode _, dataField_encode _⟩

theorem EncodesFields.flush (d : Byte) : EncodesFields.Statement (.flush d) :=
  ⟨rfl, opField_encode _, dataField_encode _⟩

theorem EncodesFields.ckclr (d : Byte) : EncodesFields.Statement (.ckclr d) :=
  ⟨rfl, opField_encode _, dataField_encode _⟩

theorem EncodesFields.ckadd (d : Byte) : EncodesFields.Statement (.ckadd d) :=
  ⟨rfl, opField_encode _, dataField_encode _⟩

end Sys2Proof.Laws
end

