-- ==== Sys2Proof/Laws/Reference.lean ====
section
/-! SUPPORT. Small lemmas of the reference functions. -/

namespace Sys2Proof.Machine

@[simp] theorem findFirst_nil (m : Marker) : findFirst m [] = none := rfl

theorem findFirst_cons (m : Marker) (a : Byte) (l : List Byte) :
    findFirst m (a :: l) =
      if a = m.first ∧ l.head? = some m.second then some 0 else (findFirst m l).map (· + 1) := rfl

/-- The marker occurs at the index `findFirst` answers (R67). -/
theorem findFirst_occurs {m : Marker} {l : List Byte} {i : Nat} (h : findFirst m l = some i) :
    l[i]? = some m.first ∧ l[i + 1]? = some m.second := by
  induction l generalizing i with
  | nil => simp at h
  | cons a l ih =>
    rw [findFirst_cons] at h
    split at h
    · rename_i hm
      obtain rfl : 0 = i := by simpa using h
      exact ⟨by simp [hm.1], by simpa [List.head?_eq_getElem?] using hm.2⟩
    · obtain ⟨j, hj, rfl⟩ := Option.map_eq_some_iff.1 h
      simpa using ih hj

/-- Nothing below the index `findFirst` answers, and nothing at all where it answers none, is an occurrence (R67). -/
theorem not_occurs_of_findFirst {m : Marker} {l : List Byte} {j : Nat}
    (h : ∀ i, findFirst m l = some i → j < i) : ¬ (l[j]? = some m.first ∧ l[j + 1]? = some m.second) := by
  induction l generalizing j with
  | nil => simp
  | cons a l ih =>
    rw [findFirst_cons] at h
    split at h
    · exact absurd (h 0 rfl) (Nat.not_lt_zero _)
    · rename_i hm
      cases j with
      | zero =>
        rintro ⟨h1, h2⟩
        exact hm ⟨by simpa using h1, by simpa [List.head?_eq_getElem?] using h2⟩
      | succ j =>
        have hj : ∀ i, findFirst m l = some i → j < i := fun i hi => by
          have := h (i + 1) (by simp [hi])
          omega
        simpa using ih hj

/-- The loop of RefFeed has turns enough: any bound from the buffer's length on gives the same result (log 10). -/
theorem rescan_fuel {k j : Nat} {buf : List Byte} (hk : buf.length ≤ k) (hj : buf.length ≤ j) :
    rescan k buf = rescan j buf := by
  induction k generalizing j buf with
  | zero =>
    obtain rfl := List.eq_nil_of_length_eq_zero (Nat.le_zero.1 hk)
    cases j <;> rfl
  | succ k ih =>
    cases j with
    | zero =>
      obtain rfl := List.eq_nil_of_length_eq_zero (Nat.le_zero.1 hj)
      rfl
    | succ j =>
      simp only [rescan]
      cases hs : findFirst Config.startMarker buf with
      | none => rfl
      | some s =>
        cases he : findFirst Config.endMarker buf with
        | none => rfl
        | some e =>
          have hs' : s ≠ 0 → (buf.drop s).length ≤ k ∧ (buf.drop s).length ≤ j := fun h => by
            simp only [List.length_drop]
            omega
          have he' : (buf.drop (e + 2)).length ≤ k ∧ (buf.drop (e + 2)).length ≤ j := by
            simp only [List.length_drop]
            omega
          by_cases h : e < s
          · have := hs' (by omega)
            simp only [if_pos h, ih this.1 this.2]
          · simp only [if_neg h, ih he'.1 he'.2]

@[simp] theorem checksum_nil : checksum [] = 0 := rfl

theorem checksum_snoc (l : List Byte) (b : Byte) : checksum (l ++ [b]) = accumulate (checksum l) b := by
  simp [checksum, accumulate, zext15]

end Sys2Proof.Machine
end

