-- ==== Sys2Proof/Laws/Run.lean ====
section
/-! SUPPORT. What one edge does, and how a run over a list of edges unrolls, the input queue put aside. -/

namespace Sys2Proof.Machine

/-- The state an edge leaves, the inputs to come put aside. -/
def edgeEffect (e : PortIn) (s : State) : State :=
  match edgeAction e with
  | .reset => resetEdge s
  | .idle => idleEdge s
  | .accept w => effect (decode w) s

/-- Every edge runs, and leaves the edges after it in place. -/
theorem step_withInputs_cons (e : PortIn) (es : List PortIn) (s : State) :
    step (s.withInputs (e :: es)) = .next ((edgeEffect e s).withInputs es) := by
  simp only [step, nextEdge_withInputs_cons, consumeEdge_withInputs_cons, edgeEffect]
  cases edgeAction e with
  | reset => rfl
  | idle => rfl
  | accept w => simp only [exec_eq_effect, effect_withInputs]

theorem step_withInputs_nil (s : State) : step (s.withInputs []) = .next ((present none s).withInputs []) := rfl

theorem edgeEffect_withInputs (e : PortIn) (s : State) (es : List PortIn) :
    edgeEffect e (s.withInputs es) = if edgeAction e = .reset then State.reset.withInputs es
      else (edgeEffect e s).withInputs es := by
  simp only [edgeEffect]
  cases edgeAction e with
  | reset => rfl
  | idle => rfl
  | accept w => simp [effect_withInputs]

@[simp] theorem edgeEffect_command (w : CmdWord) (s : State) :
    edgeEffect (PortIn.command w) s = effect (decode w) s := rfl

@[simp] theorem edgeEffect_idle (s : State) : edgeEffect PortIn.idle s = present none s := rfl

@[simp] theorem outputsOf_nil (s : State) : outputsOf [] s = [] := rfl

theorem outputsOf_cons (e : PortIn) (es : List PortIn) (s : State) :
    outputsOf (e :: es) s = (edgeEffect e s).out :: outputsOf es (edgeEffect e s) := by
  simp only [outputsOf, List.length_cons, outputs, step_withInputs_cons, withInputs_out]

@[simp] theorem finalOf_nil (s : State) : finalOf [] s = s.withInputs [] := rfl

theorem finalOf_cons (e : PortIn) (es : List PortIn) (s : State) :
    finalOf (e :: es) s = finalOf es (edgeEffect e s) := by
  simp only [finalOf, List.length_cons, stateAfter, step_withInputs_cons]

@[simp] theorem eventsOf_nil (s : State) : eventsOf [] s = [] := rfl

theorem eventsOf_cons (e : PortIn) (es : List PortIn) (s : State) :
    eventsOf (e :: es) s = (edgeEffect e s).out.toList ++ eventsOf es (edgeEffect e s) := by
  simp only [eventsOf, outputsOf_cons]
  cases (edgeEffect e s).out <;> simp

theorem outputsOf_append (es fs : List PortIn) (s : State) :
    outputsOf (es ++ fs) s = outputsOf es s ++ outputsOf fs (finalOf es s) := by
  induction es generalizing s with
  | nil => rfl
  | cons e es ih => rw [List.cons_append, outputsOf_cons, outputsOf_cons, finalOf_cons, ih, List.cons_append]

theorem finalOf_append (es fs : List PortIn) (s : State) : finalOf (es ++ fs) s = finalOf fs (finalOf es s) := by
  induction es generalizing s with
  | nil => rfl
  | cons e es ih => rw [List.cons_append, finalOf_cons, finalOf_cons, ih]

theorem eventsOf_append (es fs : List PortIn) (s : State) :
    eventsOf (es ++ fs) s = eventsOf es s ++ eventsOf fs (finalOf es s) := by
  simp only [eventsOf, outputsOf_append, List.filterMap_append]

theorem historyAfter_within {s t : State} (e : PortIn) (h : FrameHistory) (hs : s.mode = .body) (ht : t.mode = .body) :
    historyAfter s e t h = ⟨h.received ++ receivedOn e, h.emitted ++ emittedIn t.out⟩ := if_pos ⟨hs, ht⟩

theorem historyAfter_from_hunt {s : State} (e : PortIn) (t : State) (h : FrameHistory) (hs : s.mode = .hunt) :
    historyAfter s e t h = FrameHistory.none := if_neg (by simp [hs])

theorem historyAfter_to_hunt {t : State} (s : State) (e : PortIn) (h : FrameHistory) (ht : t.mode = .hunt) :
    historyAfter s e t h = FrameHistory.none := if_neg (by simp [ht])

theorem historyAfter_withInputs (s t : State) (e : PortIn) (h : FrameHistory) (es fs : List PortIn) :
    historyAfter (s.withInputs es) e (t.withInputs fs) h = historyAfter s e t h := rfl

theorem historyFor_cons (e : PortIn) (es : List PortIn) (s : State) (h : FrameHistory) :
    historyFor (e :: es).length (s.withInputs (e :: es)) h =
      historyFor es.length ((edgeEffect e s).withInputs es) (historyAfter s e (edgeEffect e s) h) := by
  simp only [List.length_cons, historyFor, step_withInputs_cons, nextEdge_withInputs_cons, historyAfter_withInputs]

theorem consume_nil (p : State × Consumer) : consume [] p = (p.1.withInputs [], p.2) := rfl

theorem consume_cons (e : PortIn) (es : List PortIn) (s : State) (c : Consumer) :
    consume (e :: es) (s, c) = consume es (edgeEffect e s, c.cycle e.rst (edgeEffect e s).out) := by
  simp only [consume, List.length_cons, consumeFor, step_withInputs_cons, nextEdge_withInputs_cons, withInputs_out]

theorem consume_fst (es : List PortIn) (s : State) (c : Consumer) : (consume es (s, c)).1 = finalOf es s := by
  induction es generalizing s c with
  | nil => rfl
  | cons e es ih => rw [consume_cons, finalOf_cons, ih]

end Sys2Proof.Machine
end

