-- ==== Sys2Proof/Tests/Slice0.lean ====
section
/-! SUPPORT. Tests. Every expected value is the spec's: the vectors of 95_test_vectors.md, the examples of the rules, or a
word written out from R42. Each witness meets all hypotheses of the statement it names. -/

namespace Sys2Proof.Tests
open Sys2Proof.Machine

/-! Well-formedness: one ill-formed term for each check that can fail (every command passes, R48) -/

theorem test_word_1024_is_refused : wellFormedWord 1024 = false ∧ wellFormedWord 1023 = true := by decide
theorem test_payload_1024_is_refused :
    wellFormedPayload (List.replicate 1024 0) = false ∧ wellFormedPayload (List.replicate 1023 0) = true := by
  decide +kernel
theorem test_every_command_is_legal : (Instr.flush 0xFF).wellFormed = true ∧ (Instr.ckclr 0x37).wellFormed = true := by
  decide

/-! Decoding: words written out bit by bit from R42 -/

theorem test_decode_rxb : decode 0b0010100000#10 = .rxb 0xA0 := by decide
theorem test_decode_flush : decode 0b0111111111#10 = .flush 0xFF := by decide
theorem test_decode_ckclr : decode 0b1000110111#10 = .ckclr 0x37 := by decide
theorem test_decode_ckadd : decode 0b1110000100#10 = .ckadd 0x84 := by decide
theorem test_decode_table_word : decodeTableWord 16 0x384 = some (.ckadd 0x84) ∧ decodeTableWord 16 0x400 = none := by
  decide
theorem test_decode_number_refused : decodeNumber 1024 = .error (.notACommandWord 1024) := by rfl

/-! Constants: the marker properties P1 to P6 of R7 -/

theorem test_marker_properties :
    Config.startMarker.first ≠ Config.startMarker.second ∧ Config.endMarker.first ≠ Config.endMarker.second ∧
    Config.startMarker.second ≠ Config.endMarker.first ∧ Config.endMarker.second ≠ Config.startMarker.first ∧
    0x7F < Config.endMarker.first.toNat ∧ 0x7F < Config.endMarker.second.toNat ∧
    Config.startMarker ≠ Config.endMarker := by decide

/-! Commands: one step each -/

/-- The state an outcome holds; reset where it holds none. -/
def after (o : Host.Outcome State Fault Refusal) : State :=
  match o with
  | .next t => t
  | .fault _ => State.reset
  | .refused _ => State.reset

/-- In BODY with a held byte and `k` confirmed bytes; the other fields of step 7 of T-EX-1. -/
def inBody (held : Byte) (k : Count17) : State :=
  { State.reset with mode := .body, pv := true, pend := held, n := k, ll := 2, rid := 0x84, t1 := 0x84 }

/-- T-EX-1 step 2: 0xA2 after 0xA0. -/
theorem test_rxb_start : (after (exec (.rxb 0xA2) { State.reset with saw := true })).mode = .body := by decide
/-- T-EX-1 step 8: the confirm of `body[4]` adds `t1`, which is `body[2]`. -/
theorem test_rxb_confirm :
    (after (exec (.rxb 0x84) (inBody 0 4))).racc = 0x84 ∧ (after (exec (.rxb 0x84) (inBody 0 4))).n = 5 ∧
    (after (exec (.rxb 0x84) (inBody 0 4))).out = some (.byte 0) := by decide
/-- T-FL-6: ABORT reports the confirmed bytes, not the held one. -/
theorem test_flush_abort : (after (exec (.flush 0) (inBody 0xB0 5))).outRec = 5 ∧
    (after (exec (.flush 0) (inBody 0xB0 5))).outKind = 2 := by decide
/-- T-FL-5: FLUSH in HUNT. -/
theorem test_flush_hunt : (after (exec (.flush 0) State.reset)).outValid = 0 := by decide
/-- T-CK-8, with a data byte to ignore. -/
theorem test_ckclr : (after (exec (.ckclr 0x37) { State.reset with tacc := 0x1234 })).ckValue = 0 := by decide
/-- T-CK-6. -/
theorem test_ckadd_wraps : (after (exec (.ckadd 1) { State.reset with tacc := 0x7FFF })).tacc = 0 := by decide
/-- T-CK-7. -/
theorem test_ckadd_wraps_past : (after (exec (.ckadd 0x20) { State.reset with tacc := 0x7FF0 })).tacc = 0x10 := by
  decide
/-- Clock-level vector e0: a command offered at a reset edge is not accepted. -/
theorem test_reset_priority : (after (step (State.reset.withInputs [⟨true, true, 0x0A0⟩]))).saw = false := by decide
/-- Clock-level vector e8 to e9: an idle edge takes the event away. -/
theorem test_idle_clears_event :
    (after (step { inBody 0 1 with out := some (.abort 1) })).outValid = 0 := by decide

/-! Records: `out_rec` against the vectors -/

/-- T-DEC-1, from the state T-EX-1 gives before step 10. -/
theorem test_record_t_dec_1 :
    packRecord (record { inBody 0xB0 6 with t1 := 0, t0 := 0x84, racc := 0x84 }) = 0x461002100210000800040006 := by
  decide
/-- T-VAL-5: a declared checksum with bit 15 set. -/
theorem test_record_t_val_5 :
    packRecord (expectedRecord [0x00, 0x02, 0x84, 0x00, 0x80, 0x84]) = 0x221002120210000800040006 := by decide
/-- T-VAL-4: both errors. -/
theorem test_record_t_val_4 :
    packRecord (expectedRecord [0x00, 0x05, 0x06, 0x00, 0x07]) = 0x30180018001C001400020005 := by decide
/-- T-VAL-10: a runt of three bytes. -/
theorem test_record_t_val_10 : packRecord (expectedRecord [0xAA, 0xBB, 0xCC]) = 0x380000000000000000000003 := by decide

/-! Reference functions -/

/-- T-EX-1. -/
theorem test_checksum : checksum [0x84, 0x00] = 0x0084 := by decide
/-- T-CK-4: the 15-bit mask, not 16 bits. -/
theorem test_checksum_mask : checksum (List.replicate 129 0xFF) = 0x007F := by decide +kernel
/-- R57. -/
theorem test_encode_ref :
    encodeRef [0x84, 0x00] = some [0xA0, 0xA2, 0x00, 0x02, 0x84, 0x00, 0x00, 0x84, 0xB0, 0xB3] := by decide
/-- T-EX-4: the source's side, in two chunks. -/
theorem test_ref_feed_chunks :
    refFeedChunks [] [[0xA0, 0xA2, 0x00, 0x02], [0x84, 0x00, 0x00, 0x84, 0xB0, 0xB3]] =
      ([], [[0x00, 0x02, 0x84, 0x00, 0x00, 0x84]]) := by decide
/-- 90_conflicts.md C1: garbage that holds START. -/
theorem test_ref_feed_garbage :
    (refFeed [] [0xA0, 0xA2, 0x11, 0xA0, 0xA2, 0x00, 0x01, 0x06, 0x00, 0x06, 0xB0, 0xB3]).2 =
      [[0x11, 0xA0, 0xA2, 0x00, 0x01, 0x06, 0x00, 0x06]] := by decide

/-! Text syntax -/

theorem test_parse_rxb : parseLine ['R', 'X', 'B', ' ', '0', 'x', 'A', '0', ' ', ';'] = some (some (.command (.rxb 0xA0))) := by
  decide
theorem test_parse_feed : parseLine ['F', 'E', 'E', 'D', ' ', 'a', '0', 'a', '2'] = some (some (.feed [0xA0, 0xA2])) := by
  decide
theorem test_parse_refuses : parseLine ['R', 'X', 'B'] = none ∧ parseLine ['N', 'O', 'P'] = none := by decide
theorem test_expand_flush : (AsmLine.command (.flush 0)).expand = some [PortIn.command 0x100] := by decide

/-! Witnesses: a concrete case that meets the hypotheses of each statement that has any -/

theorem reset_frameClear : FrameClear State.reset := ⟨rfl, rfl, rfl, rfl, rfl, rfl, rfl, rfl, rfl⟩
theorem reset_fresh : FreshDecoder State.reset := ⟨rfl, rfl, reset_frameClear⟩

theorem witness_EncodeAndDecodeAgree : (10 : Nat) ≤ 10 ∧ (1024 : Nat) ≤ 1024 := by decide
theorem witness_IdleEdgeChangesNothing : (inBody 1 1).inputs = [] := rfl
theorem witness_NoEventMeansZeroOutputs :
    (inBody 1 1).out = none ∧ ({ inBody 1 1 with out := some (.byte 7) } : State).out = some (.byte 7) := by decide
theorem witness_WaitingBlockKeepsItsState : (inBody 1 1).inputs = [] := rfl
theorem witness_RxbInHunt : State.reset.mode = .hunt := rfl
theorem witness_RxbInBody : (inBody 0xB0 4).mode = .body := rfl
theorem witness_EventPortsShowTheEvent :
    ({ State.reset with out := some (.byte 7) } : State).out = some (.byte 7) ∧
    ({ State.reset with out := some (.frameEnd (runtRecord 3)) } : State).out = some (.frameEnd (runtRecord 3)) ∧
    ({ State.reset with out := some (.abort 131071) } : State).out = some (.abort 131071) := by decide
theorem witness_EndRecordLayout :
    ({ State.reset with out := some (.frameEnd (runtRecord 3)) } : State).out = some (.frameEnd (runtRecord 3)) := rfl
theorem witness_ErrorConditionsAreReported : (inBody 1 3).n.toNat < 4 ∧ (inBody 1 3).mode = .body := by decide
theorem witness_ChecksumIsTheSumModulo : (15 : Nat) ≤ 15 := by decide
theorem witness_ChecksumDetection :
    0 < [(0x84 : Byte)].length ∧ byteAt [0x84] 0 ≠ 0x85 ∧ ([1, 2] : List Byte).Perm [2, 1] := by decide
theorem witness_StandaloneChecksumOfTheAddedBytes : NoClear [.ckadd 0x84, .rxb 0xA0, .flush 0, .ckadd 0] := by
  simp [NoClear]
theorem witness_ChecksumCommandsDoNotReachTheReceiver : SameReceiver State.reset { State.reset with tacc := 5 } :=
  ⟨rfl, rfl, rfl, rfl, rfl, rfl, rfl, rfl, rfl, rfl, rfl⟩
theorem witness_CheckerFieldsAfterConfirms :
    FrameClear State.reset ∧ 2 ≤ [(0x80 : Byte), 0x00].length ∧ 0x80 ≤ (byteAt [0x80, 0x00] (2 - 2)).toNat :=
  ⟨reset_frameClear, by decide, by decide⟩
theorem witness_RecordEqualsValidate :
    (inBody 1 3).n.toNat < 4 ∧ 4 ≤ (inBody 1 4).n.toNat ∧ FrameClear State.reset :=
  ⟨by decide, by decide, reset_frameClear⟩
theorem witness_SaturationChangesNoVerdict :
    FrameClear State.reset ∧ 65540 ≤ (List.replicate 65540 (0 : Byte)).length ∧
    131071 ≤ (List.replicate 131071 (0 : Byte)).length ∧ (List.replicate 131070 (0 : Byte)).length < 131071 := by
  simp only [List.length_replicate]
  exact ⟨reset_frameClear, by decide⟩
/-- The body of T-VAL-11 with zero bytes: 1024 of them, the shortest body the statement speaks of. -/
theorem witness_DeclaredLengthRangeIsNotChecked :
    let c : List Byte := [0x04, 0x00] ++ List.replicate 1024 0 ++ [0x00, 0x00]
    FrameClear State.reset ∧ 4 ≤ c.length ∧ 1024 ≤ pairValue (byteAt c 0) (byteAt c 1) ∧
    pairValue (byteAt c 0) (byteAt c 1) = c.length - 4 ∧
    pairValue (byteAt c (c.length - 2)) (byteAt c (c.length - 1)) = (checksum (payloadOf c)).toNat :=
  ⟨reset_frameClear, by decide +kernel, by decide +kernel, by decide +kernel, by decide +kernel⟩
theorem witness_DamagedLengthIsALengthError :
    FrameClear State.reset ∧ (validate [0x00, 0x01, 0x06, 0x00, 0x06]).ok = true ∧
    ((0x00 : Byte) ≠ byteAt [0x00, 0x01, 0x06, 0x00, 0x06] 0 ∨ (0x05 : Byte) ≠ byteAt [0x00, 0x01, 0x06, 0x00, 0x06] 1) :=
  ⟨reset_frameClear, by decide, by decide⟩
theorem witness_EncodedFrameLayout :
    (List.replicate 1023 (0 : Byte)).length < 1024 ∧ 1024 ≤ (List.replicate 1024 (0 : Byte)).length := by
  simp only [List.length_replicate]
  decide
theorem witness_HuntDropsBytesWithoutAStart :
    ({ State.reset with saw := true } : State).mode = .hunt ∧
    NoStart (huntTail { State.reset with saw := true } ++ [0x11, 0xB0, 0xB3, 0xA0]) := by decide
theorem witness_FramedBodyTimeline : State.reset.mode = .hunt ∧ NoEnd [0xB0, 0x00, 0xB0] := by decide
/-- T-VAL-6: bit 0 of the first payload byte of the frame of R57. -/
theorem witness_FlippedPayloadBitIsRejected :
    let c : List Byte := [0x00, 0x02, 0x84, 0x00, 0x00, 0x84]
    State.reset.mode = .hunt ∧ 2 ≤ 2 ∧ 2 < c.length - 2 ∧ 0 < 8 ∧ (validate c).chkErr = false ∧
    NoEnd (c.set 2 (byteAt c 2 ^^^ (1#8 <<< 0))) ∧ (validate c).ok = true := by decide
theorem witness_FirstMarkersNeverCollide :
    findFirst Config.startMarker [0xB0, 0xB3, 0xA0, 0xA2] = some 2 ∧
    findFirst Config.endMarker [0xB0, 0xB3, 0xA0, 0xA2] = some 0 := by decide

/-- A decoder right after a start marker: in BODY, nothing held. -/
def afterStart : State := { State.reset with mode := .body }

theorem afterStart_inv : Inv afterStart where
  hunt_clear h := by simp [afterStart] at h
  body_saw _ := rfl
  unheld_count _ := rfl
  unheld_pend _ := rfl
  n0 _ := ⟨rfl, rfl⟩
  n1 _ := ⟨rfl, rfl⟩
  n2 _ := rfl
  n4 _ := rfl

theorem witness_StepKeepsInv : Inv afterStart := afterStart_inv

theorem afterStart_abstracts : Abstracts afterStart [0x11, 0xA0, 0xA2] [] where
  hunt_iff := by decide
  saw_iff h := by simp [afterStart] at h
  hunt_confirmed h := by simp [afterStart] at h
  body_buffer _ := ⟨1, by decide⟩
  body_checker _ := ⟨rfl, rfl, rfl, rfl, rfl, rfl, rfl⟩

theorem witness_RxbKeepsTheAbstraction : Inv afterStart ∧ Abstracts afterStart [0x11, 0xA0, 0xA2] [] :=
  ⟨afterStart_inv, afterStart_abstracts⟩
theorem witness_AbstractionHoldsOnEveryStream : FreshDecoder { State.reset with tacc := 5 } :=
  ⟨rfl, rfl, rfl, rfl, rfl, rfl, rfl, rfl, rfl, rfl, rfl⟩
theorem witness_BlockEmitsTheReferenceBodies : FreshDecoder State.reset := reset_fresh
theorem witness_ConsumerDeliversTheValidReferenceBodies : FreshDecoder State.reset := reset_fresh
/-- A payload that holds END, as in program P4. -/
theorem witness_EncodedBodyHoldsEndExactlyWhen : ([0xB0, 0xB3] : List Byte).length < 1024 := by decide
theorem witness_EndInsideAFrameCutsIt :
    State.reset.mode = .hunt ∧ ([0xB0, 0xB3] : List Byte).length < 1024 ∧
    findFirst Config.endMarker (encodedBody [0xB0, 0xB3]) = some 2 := by decide
theorem witness_ResyncYieldsBothFramesExactlyWhen :
    State.reset.mode = .hunt ∧ NoStart (huntTail State.reset ++ [0x11, 0xB0, 0xB3, 0x22]) ∧ NoEnd [0x00, 0x01] ∧
    NoEnd [] := by decide
theorem witness_RoundTripExactlyWhen :
    State.reset.mode = .hunt ∧ ([0x84, 0x00] : List Byte).length < 1024 ∧ NoEnd (encodedBody [0x84, 0x00]) ∧
    ([0xB0, 0xB3] : List Byte).length < 1024 ∧ ¬ NoEnd (encodedBody [0xB0, 0xB3]) := by decide
/-- The frame `A0 A2 B0` in progress, as in T-FL-4, and the same right after its start marker. -/
theorem witness_ReachableStatesKeepTheListedInvariants :
    let s := finalOf (feed [0xA0, 0xA2, 0xB0]) State.reset
    s.mode = .body ∧ s.pv = true ∧ s.pend = 0xB0 ∧ (finalOf [] State.reset).mode = .hunt ∧
    (finalOf (feed [0xA0, 0xA2]) State.reset).mode = .body ∧
    (finalOf (feed [0xA0, 0xA2]) State.reset).pv = false := by decide
/-- R28 I5: the byte after the start marker counts as received while it is held. -/
theorem test_history_counts_the_held_byte :
    historyOf (feed [0xA0, 0xA2, 0xB0]) State.reset = ⟨[0xB0], []⟩ ∧
    historyOf (feed [0xA0, 0xA2]) State.reset = ⟨[], []⟩ := by decide
theorem witness_ConsumerHoldsTheEmittedBytes :
    let p := consume (feed [0xA0, 0xA2]) (State.reset, Consumer.fresh)
    p.1.mode = .body ∧ p.1.pv = false ∧ (consume [] (State.reset, Consumer.fresh)).1.mode = .hunt := by decide

/-- In BODY, `B0` held after one confirmed byte. -/
def oneConfirmed : State := { inBody 0xB0 1 with lh := 0x11, ll := 0, rid := 0, t1 := 0, t0 := 0x11 }

/-- What has passed in `oneConfirmed` since START. -/
def oneHistory : FrameHistory := ⟨[0x11, 0xB0], [0x11]⟩

theorem oneConfirmed_inv : Inv oneConfirmed where
  hunt_clear h := by simp [oneConfirmed, inBody] at h
  body_saw _ := rfl
  unheld_count h := by simp [oneConfirmed, inBody] at h
  unheld_pend h := by simp [oneConfirmed, inBody] at h
  n0 h := by simp [oneConfirmed, inBody] at h
  n1 _ := ⟨rfl, rfl⟩
  n2 _ := rfl
  n4 _ := rfl

theorem oneConfirmed_history : HistoryAgrees oneConfirmed oneHistory where
  checker _ := ⟨rfl, rfl, rfl, rfl, rfl, rfl, rfl⟩
  received _ := rfl

theorem oneConfirmed_consumer : ConsumerAgrees oneConfirmed oneHistory ⟨[0x11], [⟨[0, 0, 0, 0], none⟩]⟩ where
  hunt_pending h := by simp [oneConfirmed, inBody] at h
  body_pending _ := rfl
  body_noEnd _ := by decide
  delivered d hd := by
    obtain rfl := List.mem_singleton.1 hd
    exact ⟨by decide, by decide, by decide⟩

theorem witness_StepKeepsTheFrameHistory : Inv oneConfirmed ∧ HistoryAgrees oneConfirmed oneHistory :=
  ⟨oneConfirmed_inv, oneConfirmed_history⟩
theorem witness_StepKeepsTheConsumerInAgreement :
    Inv oneConfirmed ∧ HistoryAgrees oneConfirmed oneHistory ∧
    ConsumerAgrees oneConfirmed oneHistory ⟨[0x11], [⟨[0, 0, 0, 0], none⟩]⟩ :=
  ⟨oneConfirmed_inv, oneConfirmed_history, oneConfirmed_consumer⟩
/-- The empty frame of T-VAL-1. -/
theorem witness_ConsumerDeliversOnlyValidBodies :
    State.reset.mode = .hunt ∧
    (⟨[0, 0, 0, 0], none⟩ : Delivery) ∈
      (consume (feed (framed [0, 0, 0, 0])) (State.reset, Consumer.fresh)).2.delivered := by decide
theorem witness_FrameLineDeliversItsPayload :
    ([0x06] : List Byte).length < 1024 ∧ NoEnd (encodedBody [0x06]) := by decide

end Sys2Proof.Tests
end

section
/-! SUPPORT. What one rising edge can do to the receive path, said once; that every such transition keeps `Inv` and the
agreement with the frame's history; and, with these, the statements about the state (10_state.md). -/

namespace Sys2Proof.Machine

/-! The edge a step runs -/

theorem edgeEffect_reset {e : PortIn} {s : State} (he : edgeAction e = .reset) : edgeEffect e s = resetEdge s := by
  simp [edgeEffect, he]

theorem edgeEffect_of_idle {e : PortIn} {s : State} (he : edgeAction e = .idle) : edgeEffect e s = idleEdge s := by
  simp [edgeEffect, he]

theorem edgeEffect_accept {e : PortIn} {s : State} {w : CmdWord} (he : edgeAction e = .accept w) :
    edgeEffect e s = effect (decode w) s := by
  simp [edgeEffect, he]

/-- Every step is the effect of the edge that comes next, whether it was queued or is the idle one after the queue. -/
theorem step_eq_edgeEffect (s : State) :
    step s = .next ((edgeEffect (nextEdge s) s).withInputs s.inputs.tail) := by
  rw [← withInputs_self s]
  cases s.inputs with
  | nil => exact step_withInputs_nil s
  | cons e es =>
    rw [step_withInputs_cons, nextEdge_withInputs_cons, edgeEffect_withInputs]
    split
    case isTrue hr =>
      rw [edgeEffect_reset hr]
      rfl
    case isFalse => rfl

theorem receivedOn_accept {e : PortIn} {w : CmdWord} (he : edgeAction e = .accept w) :
    receivedOn e = fedByte (decode w) := by
  simp [receivedOn, he]

/-- The receive path does not hold the standalone accumulator or the event presented. -/
theorem sameReceiver_quiet (s : State) (acc : Sum15) : SameReceiver s (present none { s with tacc := acc }) :=
  ⟨rfl, rfl, rfl, rfl, rfl, rfl, rfl, rfl, rfl, rfl, rfl⟩

theorem sameReceiver_withInputs (s : State) (es : List PortIn) : SameReceiver s (s.withInputs es) :=
  ⟨rfl, rfl, rfl, rfl, rfl, rfl, rfl, rfl, rfl, rfl, rfl⟩

/-- What an edge can do to the receive path: one constructor for each branch of R33, R62, R63, R70 to R72 and R113. -/
inductive EdgeTransition (s : State) (e : PortIn) : State → Prop where
  /-- `rst = 1` (R113). -/
  | reset (action : edgeAction e = .reset) : EdgeTransition s e (resetEdge s)
  /-- An idle edge, CKCLR or CKADD: the receive path does not see it (R33, R62, R63). -/
  | quiet {t : State} (same : SameReceiver s t) (out : t.out = none) (received : receivedOn e = []) :
      EdgeTransition s e t
  /-- FLUSH (R72). -/
  | flush (received : receivedOn e = []) : EdgeTransition s e (present (flushEvent s) (enterMode .hunt (clearFrame s)))
  /-- A byte that completes a start marker (R70). -/
  | start (b : Byte) (mode : s.mode = .hunt) (received : receivedOn e = [b])
      (completes : completesStart s.saw b = true) :
      EdgeTransition s e (present none (enterMode .body (clearFrame s)))
  /-- Any other byte in HUNT (R70). -/
  | hunting (b : Byte) (mode : s.mode = .hunt) (received : receivedOn e = [b])
      (goesOn : completesStart s.saw b = false) :
      EdgeTransition s e (present none { s with saw := beginsStart b })
  /-- A byte that completes an end marker with the held one (R71). -/
  | frameEnd (b : Byte) (mode : s.mode = .body) (received : receivedOn e = [b])
      (completes : completesEnd s.pv s.pend b = true) :
      EdgeTransition s e (present (some (.frameEnd (record s))) (enterMode .hunt (clearFrame s)))
  /-- A body byte that confirms the held one and is held in its place (R71). -/
  | confirm (b : Byte) (mode : s.mode = .body) (pv : s.pv = true) (received : receivedOn e = [b])
      (goesOn : completesEnd s.pv s.pend b = false) :
      EdgeTransition s e (present (some (.byte s.pend)) { confirm s s.pend with pend := b })
  /-- The first body byte (R71). -/
  | hold (b : Byte) (mode : s.mode = .body) (pv : s.pv = false) (received : receivedOn e = [b]) :
      EdgeTransition s e (present none { s with pend := b, pv := true })

theorem rxb_transition {s : State} {e : PortIn} {b : Byte} (hr : receivedOn e = [b]) :
    EdgeTransition s e (effect (.rxb b) s) := by
  cases hm : s.mode with
  | hunt =>
    rw [effect_rxb_hunt hm]
    obtain ⟨hc, heq⟩ | ⟨hc, heq⟩ := rxbHunt_cases b s <;> rw [heq]
    · exact .start b hm hr hc
    · exact .hunting b hm hr hc
  | body =>
    rw [effect_rxb_body hm]
    obtain ⟨hc, heq⟩ | ⟨hc, hp, heq⟩ | ⟨hp, heq⟩ := rxbBody_cases b s <;> rw [heq]
    · exact .frameEnd b hm hr hc
    · exact .confirm b hm hp hr hc
    · exact .hold b hm hp hr

theorem edgeEffect_transition (e : PortIn) (s : State) : EdgeTransition s e (edgeEffect e s) := by
  cases he : edgeAction e with
  | reset =>
    rw [edgeEffect_reset he]
    exact .reset he
  | idle =>
    rw [edgeEffect_of_idle he]
    exact .quiet (sameReceiver_quiet s s.tacc) rfl (by simp [receivedOn, he])
  | accept w =>
    have hr := receivedOn_accept he
    rw [edgeEffect_accept he]
    cases hw : decode w with
    | rxb b => exact rxb_transition (by simp [hr, hw, fedByte])
    | flush d => exact .flush (by simp [hr, hw, fedByte])
    | ckclr d => exact .quiet (sameReceiver_quiet s 0) rfl (by simp [hr, hw, fedByte])
    | ckadd d => exact .quiet (sameReceiver_quiet s _) rfl (by simp [hr, hw, fedByte])

/-! Every transition keeps `Inv` -/

/-- A count below the saturation value was one less before the confirm (R20). -/
theorem countUp_le_iff {n : Count17} {k : Nat} (hk : k < Config.nmax) :
    (countUp n).toNat ≤ k ↔ n.toNat + 1 ≤ k := by
  rw [countUp_toNat]
  omega

theorem inv_of_frameClear {s : State} (hc : FrameClear s) (hs : s.mode = .body → s.saw = false) : Inv s where
  hunt_clear _ := hc
  body_saw := hs
  unheld_count _ := hc.n
  unheld_pend _ := hc.pend
  n0 _ := ⟨hc.lh, hc.t0⟩
  n1 _ := ⟨hc.ll, hc.t1⟩
  n2 _ := hc.rid
  n4 _ := hc.racc

theorem frameClear_of_sameReceiver {s t : State} (h : SameReceiver s t) (hc : FrameClear s) : FrameClear t where
  pv := h.pv ▸ hc.pv
  pend := h.pend ▸ hc.pend
  n := h.n ▸ hc.n
  lh := h.lh ▸ hc.lh
  ll := h.ll ▸ hc.ll
  rid := h.rid ▸ hc.rid
  t1 := h.t1 ▸ hc.t1
  t0 := h.t0 ▸ hc.t0
  racc := h.racc ▸ hc.racc

theorem inv_of_sameReceiver {s t : State} (h : SameReceiver s t) (hi : Inv s) : Inv t where
  hunt_clear hm := frameClear_of_sameReceiver h (hi.hunt_clear (h.mode.trans hm))
  body_saw := by simpa only [h.mode, h.saw] using hi.body_saw
  unheld_count := by simpa only [h.pv, h.n] using hi.unheld_count
  unheld_pend := by simpa only [h.pv, h.pend] using hi.unheld_pend
  n0 := by simpa only [h.n, h.lh, h.t0] using hi.n0
  n1 := by simpa only [h.n, h.ll, h.t1] using hi.n1
  n2 := by simpa only [h.n, h.rid] using hi.n2
  n4 := by simpa only [h.n, h.racc] using hi.n4

/-- A decoder that searches for a start marker stays clear, whatever becomes of `saw`. -/
theorem inv_hunting {s : State} (b : Byte) (hm : s.mode = .hunt) (hi : Inv s) :
    Inv (present none { s with saw := beginsStart b }) := by
  obtain ⟨pv, pend, n, lh, ll, rid, t1, t0, racc⟩ := hi.hunt_clear hm
  exact inv_of_frameClear ⟨pv, pend, n, lh, ll, rid, t1, t0, racc⟩ (fun h => by simp [hm] at h)

/-- A confirm writes `lh`, `ll` and `rid` at their own counts, so the fields of later counts stay 0 (R86, R90). -/
theorem inv_confirm {s : State} (e : Option Event) (b : Byte) (hm : s.mode = .body) (hp : s.pv = true) (hi : Inv s) :
    Inv (present e { confirm s s.pend with pend := b }) where
  hunt_clear h := by simp [hm] at h
  body_saw _ := hi.body_saw hm
  unheld_count h := by simp [hp] at h
  unheld_pend h := by simp [hp] at h
  n0 h := absurd ((countUp_le_iff (by decide)).1 h.le) (Nat.not_succ_le_zero _)
  n1 h := by
    have hn : s.n.toNat = 0 := by have := (countUp_le_iff (by decide)).1 h; omega
    simp [hn, hi.n1 (by omega), hi.n0 hn]
  n2 h := by
    have hn : s.n.toNat ≤ 1 := by have := (countUp_le_iff (by decide)).1 h; omega
    simp [show s.n.toNat ≠ 2 by omega, hi.n2 (by omega)]
  n4 h := by
    have hn : s.n.toNat ≤ 3 := by have := (countUp_le_iff (by decide)).1 h; omega
    simp [show ¬ 4 ≤ s.n.toNat by omega, hi.n4 (by omega)]

/-- Holding the first body byte confirms none. -/
theorem inv_hold {s : State} (e : Option Event) (b : Byte) (hm : s.mode = .body) (hi : Inv s) :
    Inv (present e { s with pend := b, pv := true }) where
  hunt_clear h := by simp [hm] at h
  body_saw := hi.body_saw
  unheld_count h := by simp at h
  unheld_pend h := by simp at h
  n0 := hi.n0
  n1 := hi.n1
  n2 := hi.n2
  n4 := hi.n4

theorem inv_of_freshDecoder {s : State} (h : FreshDecoder s) : Inv s :=
  inv_of_frameClear h.frame (fun _ => h.saw)

theorem freshDecoder_reset (es : List PortIn) : FreshDecoder (State.reset.withInputs es) :=
  ⟨rfl, rfl, rfl, rfl, rfl, rfl, rfl, rfl, rfl, rfl, rfl⟩

/-- START, END and FLUSH clear the frame (R73). -/
theorem frameClear_enter (e : Option Event) (m : Mode) (s : State) :
    FrameClear (present e (enterMode m (clearFrame s))) :=
  frameClear_present _ (frameClear_enterMode _ (clearFrame_frameClear s))

/-- What END and FLUSH leave of the decoder (R71, R72). -/
theorem freshDecoder_leave (e : Option Event) (s : State) : FreshDecoder (present e (enterMode .hunt (clearFrame s))) :=
  ⟨rfl, rfl, frameClear_enter _ _ s⟩

theorem inv_of_transition {s t : State} {e : PortIn} (h : EdgeTransition s e t) (hi : Inv s) : Inv t := by
  cases h with
  | reset => exact inv_of_freshDecoder (freshDecoder_reset s.inputs)
  | quiet same => exact inv_of_sameReceiver same hi
  | flush => exact inv_of_freshDecoder (freshDecoder_leave _ s)
  | start => exact inv_of_frameClear (frameClear_enter _ _ s) (fun _ => rfl)
  | hunting b mode => exact inv_hunting b mode hi
  | frameEnd => exact inv_of_freshDecoder (freshDecoder_leave _ s)
  | confirm b mode pv => exact inv_confirm _ b mode pv hi
  | hold b mode => exact inv_hold _ b mode hi

theorem inv_withInputs {s : State} (es : List PortIn) (hi : Inv s) : Inv (s.withInputs es) :=
  inv_of_sameReceiver (sameReceiver_withInputs s es) hi

theorem edgeEffect_keeps_inv (e : PortIn) {s : State} (hi : Inv s) : Inv (edgeEffect e s) :=
  inv_of_transition (edgeEffect_transition e s) hi

/-! The checker after one more byte (R90) -/

/-- Appending a byte changes `byteAt` at the old length only. -/
theorem byteAt_snoc (l : List Byte) (p : Byte) (i : Nat) :
    byteAt (l ++ [p]) i = if i = l.length then p else byteAt l i := by
  obtain h | rfl | h := Nat.lt_trichotomy i l.length
  · simp [byteAt, List.getElem?_append_left h, h.ne]
  · simp [byteAt]
  · simp [byteAt, h.ne', List.getElem?_append_right h.le, Nat.sub_ne_zero_of_lt h, h.le]

/-- A body of fewer than four bytes, and of four, has no payload. -/
theorem payloadOf_eq_nil {l : List Byte} (h : l.length ≤ 4) : payloadOf l = [] := by
  simp only [payloadOf, slice, List.drop_eq_nil_iff, List.length_take]
  omega

/-- From four bytes on, each further byte makes the second-last one a payload byte. -/
theorem payloadOf_snoc {l : List Byte} (p : Byte) (h : 4 ≤ l.length) :
    payloadOf (l ++ [p]) = payloadOf l ++ [byteAt l (l.length - 2)] := by
  have hlt : l.length - 2 < l.length := by omega
  have htake : (l ++ [p]).take (l.length - 2 + 1) = l.take (l.length - 2) ++ [l[l.length - 2]] := by
    rw [List.take_append_of_le_length (by omega), List.take_add_one, List.getElem?_eq_getElem hlt]
    rfl
  have hlen : (l ++ [p]).length - 2 = l.length - 2 + 1 := by simp; omega
  rw [payloadOf, slice, hlen, htake, List.drop_append_of_le_length (by simp; omega)]
  simp [payloadOf, slice, byteAt, List.getElem?_eq_getElem hlt]

theorem checkerHolds_nil {s : State} (hc : FrameClear s) : CheckerHolds s [] where
  n := by simp [hc.n]
  lh := hc.lh
  ll := hc.ll
  rid := hc.rid
  t0 := hc.t0
  t1 := hc.t1
  racc := hc.racc

theorem checkerHolds_of_sameReceiver {s t : State} {c : List Byte} (h : SameReceiver s t) (hc : CheckerHolds s c) :
    CheckerHolds t c where
  n := h.n ▸ hc.n
  lh := h.lh ▸ hc.lh
  ll := h.ll ▸ hc.ll
  rid := h.rid ▸ hc.rid
  t0 := h.t0 ▸ hc.t0
  t1 := h.t1 ▸ hc.t1
  racc := h.racc ▸ hc.racc

/-- Below the saturation value the counter is the number of confirmed bytes (R20). -/
theorem checkerHolds_n_eq_iff {s : State} {c : List Byte} {k : Nat} (hc : CheckerHolds s c) (hk : k < Config.nmax) :
    s.n.toNat = k ↔ k = c.length := by
  rw [hc.n]
  omega

theorem checkerHolds_le_n_iff {s : State} {c : List Byte} {k : Nat} (hc : CheckerHolds s c) (hk : k < Config.nmax) :
    k ≤ s.n.toNat ↔ k ≤ c.length := by
  rw [hc.n]
  omega

/-- A confirm takes the checker from the body so far to the body with one more byte (R86, R90). -/
theorem checkerHolds_confirm {s : State} {c : List Byte} (p : Byte) (hc : CheckerHolds s c) :
    CheckerHolds (confirm s p) (c ++ [p]) where
  n := by
    rw [confirm_n, countUp_toNat, hc.n, List.length_append, List.length_singleton]
    omega
  lh := by simp only [confirm_lh, byteAt_snoc, checkerHolds_n_eq_iff hc (k := 0) (by decide), hc.lh]
  ll := by simp only [confirm_ll, byteAt_snoc, checkerHolds_n_eq_iff hc (k := 1) (by decide), hc.ll]
  rid := by simp only [confirm_rid, byteAt_snoc, checkerHolds_n_eq_iff hc (k := 2) (by decide), hc.rid]
  t0 := by simp [byteAt_snoc]
  t1 := by
    rw [confirm_t1, hc.t0, byteAt_snoc]
    by_cases h : 1 ≤ c.length
    · simp [h, show c.length - 1 ≠ c.length by omega]
    · simp [h]
  racc := by
    simp only [confirm_racc, hc.racc, hc.t1, checkerHolds_le_n_iff hc (k := 4) (by decide)]
    split
    case isTrue h => rw [if_pos (by omega), payloadOf_snoc p h, checksum_snoc]
    case isFalse h => rw [payloadOf_eq_nil (by omega), payloadOf_eq_nil (by simp; omega)]

/-! Every transition keeps the agreement with the history -/

theorem heldBytes_unheld {s : State} (h : s.pv = false) : heldBytes s = [] := by simp [heldBytes, h]

theorem heldBytes_of_sameReceiver {s t : State} (h : SameReceiver s t) : heldBytes t = heldBytes s := by
  simp only [heldBytes, h.pv, h.pend]

/-- In HUNT there is nothing to agree on. -/
theorem historyAgrees_of_hunt {s : State} (h : FrameHistory) (hm : s.mode = .hunt) : HistoryAgrees s h where
  checker hb := by simp [hm] at hb
  received hb := by simp [hm] at hb

/-- A frame just begun agrees with the empty history. -/
theorem historyAgrees_none {s : State} (hc : FrameClear s) : HistoryAgrees s FrameHistory.none where
  checker _ := checkerHolds_nil hc
  received _ := by simp [FrameHistory.none, heldBytes_unheld hc.pv]

theorem historyAgrees_of_sameReceiver {s t : State} {h : FrameHistory} (hst : SameReceiver s t)
    (hh : HistoryAgrees s h) : HistoryAgrees t h where
  checker hm := checkerHolds_of_sameReceiver hst (hh.checker (hst.mode.trans hm))
  received hm := by rw [heldBytes_of_sameReceiver hst, hh.received (hst.mode.trans hm)]

/-- In BODY, an edge that feeds no byte and shows no event leaves the history as it is. -/
theorem historyAfter_quiet {s t : State} {e : PortIn} (h : FrameHistory) (hs : s.mode = .body) (ht : t.mode = .body)
    (hr : receivedOn e = []) (ho : t.out = none) : historyAfter s e t h = h := by
  simp [historyAfter_within e h hs ht, hr, ho, emittedIn]

/-- Within BODY, the agreement after an edge in terms of what the edge received and emitted. -/
theorem historyAgrees_within {s t : State} {e : PortIn} {h : FrameHistory} (hs : s.mode = .body) (ht : t.mode = .body)
    (hc : CheckerHolds t (h.emitted ++ emittedIn t.out))
    (hr : h.received ++ receivedOn e = h.emitted ++ emittedIn t.out ++ heldBytes t) :
    HistoryAgrees t (historyAfter s e t h) := by
  rw [historyAfter_within e h hs ht]
  exact ⟨fun _ => hc, fun _ => hr⟩

theorem historyAgrees_of_transition {s t : State} {e : PortIn} {h : FrameHistory} (htr : EdgeTransition s e t)
    (hh : HistoryAgrees s h) : HistoryAgrees t (historyAfter s e t h) := by
  cases htr with
  | reset => exact historyAgrees_of_hunt _ rfl
  | quiet same out received =>
    cases hm : s.mode with
    | hunt => exact historyAgrees_of_hunt _ (same.mode ▸ hm)
    | body =>
      rw [historyAfter_quiet h hm (same.mode ▸ hm) received out]
      exact historyAgrees_of_sameReceiver same hh
  | flush => exact historyAgrees_of_hunt _ rfl
  | start b mode =>
    rw [historyAfter_from_hunt _ _ _ mode]
    exact historyAgrees_none (frameClear_enter _ _ s)
  | hunting b mode => exact historyAgrees_of_hunt _ mode
  | frameEnd => exact historyAgrees_of_hunt _ rfl
  | confirm b mode pv received =>
    obtain ⟨n, lh, ll, rid, t0, t1, racc⟩ := checkerHolds_confirm s.pend (hh.checker mode)
    exact historyAgrees_within mode mode ⟨n, lh, ll, rid, t0, t1, racc⟩
      (by simp [received, hh.received mode, heldBytes, pv, emittedIn])
  | hold b mode pv received =>
    obtain ⟨n, lh, ll, rid, t0, t1, racc⟩ : CheckerHolds s (h.emitted ++ emittedIn none) := by
      simpa [emittedIn] using hh.checker mode
    exact historyAgrees_within mode mode ⟨n, lh, ll, rid, t0, t1, racc⟩
      (by simp [received, hh.received mode, heldBytes, pv, emittedIn])

theorem historyAgrees_withInputs {s : State} {h : FrameHistory} (es : List PortIn) (hh : HistoryAgrees s h) :
    HistoryAgrees (s.withInputs es) h :=
  historyAgrees_of_sameReceiver (sameReceiver_withInputs s es) hh

theorem edgeEffect_keeps_historyAgrees (e : PortIn) {s : State} {h : FrameHistory} (hh : HistoryAgrees s h) :
    HistoryAgrees (edgeEffect e s) (historyAfter s e (edgeEffect e s) h) :=
  historyAgrees_of_transition (edgeEffect_transition e s) hh

/-! Over a run -/

theorem finalOf_keeps_inv (es : List PortIn) {s : State} (hi : Inv s) : Inv (finalOf es s) := by
  induction es generalizing s with
  | nil => exact inv_withInputs [] hi
  | cons e es ih =>
    rw [finalOf_cons]
    exact ih (edgeEffect_keeps_inv e hi)

theorem finalOf_keeps_historyAgrees (es : List PortIn) {s : State} {h : FrameHistory} (hh : HistoryAgrees s h) :
    HistoryAgrees (finalOf es s) (historyFor es.length (s.withInputs es) h) := by
  induction es generalizing s h with
  | nil => exact historyAgrees_withInputs [] hh
  | cons e es ih =>
    rw [finalOf_cons, historyFor_cons]
    exact ih (edgeEffect_keeps_historyAgrees e hh)

/-- R28 I5 from I4: with nothing held the counter is 0, so nothing was emitted, and nothing else was received. -/
theorem received_nil_of_unheld {s : State} {h : FrameHistory} (hi : Inv s) (hh : HistoryAgrees s h)
    (hm : s.mode = .body) (hp : s.pv = false) : h.received = [] := by
  have hn : s.n.toNat = 0 := by simp [hi.unheld_count hp]
  have hlen := (checkerHolds_n_eq_iff (hh.checker hm) (by decide)).1 hn
  rw [hh.received hm, heldBytes_unheld hp, List.append_nil, List.eq_nil_of_length_eq_zero hlen.symm]

/-- R28 I6: with 0xB0 held, 0xB3 and no other byte ends the frame. -/
theorem rxb_ends_iff_of_held {s : State} (b : Byte) (hm : s.mode = .body) (hp : s.pv = true) (hb : s.pend = 0xB0) :
    (∃ r, (effect (.rxb b) s).out = some (.frameEnd r)) ↔ b = 0xB3 := by
  have hend : completesEnd s.pv s.pend b = true ↔ b = 0xB3 := by simp [completesEnd_iff, hp, hb]
  rw [effect_rxb_body hm, ← hend]
  obtain ⟨hc, heq⟩ | ⟨hc, -, heq⟩ | ⟨hc, -⟩ := rxbBody_cases b s
  · simp [heq, hc]
  · simp [heq, hc]
  · simp [hp] at hc

/-! The statements -/

/-- Settles O45: a step is one transition of the receive path, and every transition keeps `Inv`. -/
theorem stepKeepsInv : Obligations.StepKeepsInv := by
  intro s hi
  exact ⟨_, step_eq_edgeEffect s, inv_withInputs _ (edgeEffect_keeps_inv (nextEdge s) hi)⟩

/-- Settles O51: a step is one transition of the receive path, and every transition takes a history that agrees to one
that agrees. -/
theorem stepKeepsTheFrameHistory : Obligations.StepKeepsTheFrameHistory := by
  intro s h _ hh
  exact ⟨_, step_eq_edgeEffect s, historyAgrees_withInputs _ (edgeEffect_keeps_historyAgrees (nextEdge s) hh)⟩

/-- Settles O46: after a reset the decoder is fresh, and nothing has been received, emitted, pending or delivered. -/
theorem resetHasInv : Obligations.ResetHasInv := by
  intro es
  have hf := freshDecoder_reset es
  exact ⟨inv_of_freshDecoder hf, historyAgrees_none hf.frame,
    { hunt_pending := fun _ => rfl
      body_pending := fun _ => rfl
      body_noEnd := fun _ => rfl
      delivered := fun d hd => by simp [Consumer.fresh] at hd }⟩

/-- Settles O47: `Inv` and the agreement with the run's history hold after any edges from reset, and give I1 to I6. -/
theorem reachableStatesKeepTheListedInvariants : Obligations.ReachableStatesKeepTheListedInvariants := by
  intro es s h
  obtain ⟨hi₀, hh₀, -⟩ := resetHasInv []
  have hi : Inv s := finalOf_keeps_inv es hi₀
  have hh : HistoryAgrees s h := finalOf_keeps_historyAgrees es hh₀
  refine ⟨fun hm => ⟨(hi.hunt_clear hm).pv, (hi.hunt_clear hm).pend⟩, hi.body_saw, ?_,
    fun hm => (hh.checker hm).n, fun hm hp => ⟨received_nil_of_unheld hi hh hm hp, hi.unheld_count hp⟩,
    hh.received, fun hm hp hb b => ⟨_, exec_eq_effect _ s, rxb_ends_iff_of_held b hm hp hb⟩⟩
  exact ⟨Nat.le_of_lt_succ s.n.isLt, s.racc.isLt, s.tacc.isLt⟩

end Sys2Proof.Machine
end

section
/-! SUPPORT. That commands are read back as they were encoded and neither see nor keep the event presented, that the
receive commands and `tacc` do not touch one another, that the source's loop gives the same on a stream as on its pieces;
and, with these, the statements about order and time (20_memory.md). -/

namespace Sys2Proof.Machine

/-! An offered command runs as itself -/

theorem decode_encode (i : Instr) : decode (encode i) = i := by
  rw [decode, Laws.opField_encode, Laws.dataField_encode]
  cases i <;> rfl

@[simp] theorem edgeEffect_command_encode (i : Instr) (s : State) :
    edgeEffect (PortIn.command (encode i)) s = effect i s := by
  rw [edgeEffect_command, decode_encode]

@[simp] theorem commandEdges_nil : commandEdges [] = [] := rfl

@[simp] theorem commandEdges_cons (i : Instr) (is : List Instr) :
    commandEdges (i :: is) = PortIn.command (encode i) :: commandEdges is := rfl

theorem execAll_cons (i : Instr) (is : List Instr) (s : State) : execAll (i :: is) s = execAll is (effect i s) := by
  simp only [execAll, exec_eq_effect]

theorem run_succ_of_step {s t : State} (k : Nat) (h : step s = .next t) :
    Host.Core.run core (k + 1) s = Host.Core.run core k t := by
  have h' : core.step s = .next t := h
  simp only [Host.Core.run, h']

/-! No edge sees the event presented before it (log 2) -/

theorem effect_present (i : Instr) (o : Option Event) (s : State) : effect i (present o s) = effect i s := by
  cases i <;> rfl

theorem edgeEffect_present (e : PortIn) (o : Option Event) (s : State) :
    edgeEffect e (present o s) = edgeEffect e s := by
  simp only [edgeEffect]
  cases edgeAction e with
  | reset => rfl
  | idle => rfl
  | accept w => exact effect_present (decode w) o s

theorem eventsOf_present (es : List PortIn) (o : Option Event) (s : State) :
    eventsOf es (present o s) = eventsOf es s := by
  cases es with
  | nil => rfl
  | cons e es => simp only [eventsOf_cons, edgeEffect_present]

/-- Only where no edge follows is the event presented before a run still shown after it. -/
theorem present_finalOf_present (es : List PortIn) (e o : Option Event) (s : State) :
    present e (finalOf es (present o s)) = present e (finalOf es s) := by
  cases es with
  | nil => rfl
  | cons e es => simp only [finalOf_cons, edgeEffect_present]

/-! Edges that offer no command (R33) -/

theorem edgeAction_idle_iff (e : PortIn) : edgeAction e = .idle ↔ (e.rst || e.inValid) = false := by
  cases hr : e.rst <;> cases hv : e.inValid <;> simp [edgeAction, hr, hv]

/-! The receive commands and the standalone accumulator do not touch one another (R25, R35) -/

theorem rxbHunt_withTacc (b : Byte) (s : State) (acc : Sum15) :
    rxbHunt b { s with tacc := acc } = { rxbHunt b s with tacc := acc } := by
  simp only [rxbHunt]
  split <;> rfl

theorem rxbBody_withTacc (b : Byte) (s : State) (acc : Sum15) :
    rxbBody b { s with tacc := acc } = { rxbBody b s with tacc := acc } := by
  simp only [rxbBody]
  split
  · rfl
  · split <;> rfl

theorem mode_hunt_or_body (s : State) : s.mode = .hunt ∨ s.mode = .body := by
  cases s.mode <;> simp

/-- A receive command takes whatever `tacc` holds along. -/
theorem effect_withTacc {i : Instr} (hi : isReceive i = true) (s : State) (acc : Sum15) :
    effect i { s with tacc := acc } = { effect i s with tacc := acc } := by
  cases i with
  | rxb b =>
    obtain hm | hm := mode_hunt_or_body s
    · rw [effect_rxb_hunt hm, effect_rxb_hunt (by exact hm), rxbHunt_withTacc]
    · rw [effect_rxb_body hm, effect_rxb_body (by exact hm), rxbBody_withTacc]
  | flush d => rfl
  | ckclr d => simp [isReceive] at hi
  | ckadd b => simp [isReceive] at hi

theorem effect_tacc {i : Instr} (hi : isReceive i = true) (s : State) : (effect i s).tacc = s.tacc := by
  have h : effect i s = { effect i s with tacc := s.tacc } := effect_withTacc hi s s.tacc
  rw [h]

theorem sameReceiver_trans {s t u : State} (hst : SameReceiver s t) (htu : SameReceiver t u) : SameReceiver s u where
  mode := hst.mode.trans htu.mode
  saw := hst.saw.trans htu.saw
  pv := hst.pv.trans htu.pv
  pend := hst.pend.trans htu.pend
  n := hst.n.trans htu.n
  lh := hst.lh.trans htu.lh
  ll := hst.ll.trans htu.ll
  rid := hst.rid.trans htu.rid
  t1 := hst.t1.trans htu.t1
  t0 := hst.t0.trans htu.t0
  racc := hst.racc.trans htu.racc

theorem sameReceiver_symm {s t : State} (h : SameReceiver s t) : SameReceiver t s where
  mode := h.mode.symm
  saw := h.saw.symm
  pv := h.pv.symm
  pend := h.pend.symm
  n := h.n.symm
  lh := h.lh.symm
  ll := h.ll.symm
  rid := h.rid.symm
  t1 := h.t1.symm
  t0 := h.t0.symm
  racc := h.racc.symm

/-- States that agree on the receive path differ in `tacc`, the event presented and the inputs to come alone. -/
theorem eq_of_sameReceiver {s t : State} (h : SameReceiver s t) :
    t = (present t.out { s with tacc := t.tacc }).withInputs t.inputs := by
  obtain ⟨mode, saw, pv, pend, n, lh, ll, rid, t1, t0, racc⟩ := h
  cases t
  simp only [present, State.withInputs, mode, saw, pv, pend, n, lh, ll, rid, t1, t0, racc]

/-- A receive command presents the same event, and does the same, in states that agree on the receive path. -/
theorem effect_of_sameReceiver {i : Instr} {s t : State} (hi : isReceive i = true) (h : SameReceiver s t) :
    effect i t = ({ effect i s with tacc := t.tacc } : State).withInputs t.inputs := by
  conv_lhs => rw [eq_of_sameReceiver h]
  rw [effect_withInputs, effect_present, effect_withTacc hi]

theorem effect_out_of_sameReceiver {i : Instr} {s t : State} (hi : isReceive i = true) (h : SameReceiver s t) :
    (effect i t).out = (effect i s).out := by
  rw [effect_of_sameReceiver hi h, withInputs_out]

theorem effect_keeps_sameReceiver {i : Instr} {s t : State} (hi : isReceive i = true) (h : SameReceiver s t) :
    SameReceiver (effect i s) (effect i t) := by
  rw [effect_of_sameReceiver hi h]
  exact ⟨rfl, rfl, rfl, rfl, rfl, rfl, rfl, rfl, rfl, rfl, rfl⟩

/-- CKCLR and CKADD present nothing and leave the receive path as it was. -/
theorem effect_checksum {i : Instr} (hi : isReceive i = false) (s : State) :
    (effect i s).out = none ∧ SameReceiver s (effect i s) := by
  cases i with
  | rxb b => simp [isReceive] at hi
  | flush d => simp [isReceive] at hi
  | ckclr d => exact ⟨rfl, sameReceiver_quiet s 0⟩
  | ckadd b => exact ⟨rfl, sameReceiver_quiet s _⟩

theorem finalOf_receive_tacc (is : List Instr) (s : State) :
    (finalOf (commandEdges (is.filter isReceive)) s).tacc = s.tacc := by
  induction is generalizing s with
  | nil => rfl
  | cons i is ih =>
    cases hi : isReceive i with
    | false => rw [List.filter_cons_of_neg (by simp [hi]), ih]
    | true =>
      rw [List.filter_cons_of_pos hi, commandEdges_cons, finalOf_cons, edgeEffect_command_encode, ih, effect_tacc hi]

/-- Two runs, one with the checksum commands and one without them, from states that agree on the receive path. -/
theorem run_of_sameReceiver (is : List Instr) {s t : State} (h : SameReceiver s t) :
    eventsOf (commandEdges is) s = eventsOf (commandEdges (is.filter isReceive)) t ∧
    SameReceiver (finalOf (commandEdges is) s) (finalOf (commandEdges (is.filter isReceive)) t) := by
  induction is generalizing s t with
  | nil =>
    have hs := sameReceiver_symm (sameReceiver_withInputs s [])
    exact ⟨rfl, sameReceiver_trans hs (sameReceiver_trans h (sameReceiver_withInputs t []))⟩
  | cons i is ih =>
    simp only [commandEdges_cons, eventsOf_cons, finalOf_cons, edgeEffect_command_encode]
    cases hi : isReceive i with
    | false =>
      obtain ⟨hout, hsame⟩ := effect_checksum hi s
      rw [List.filter_cons_of_neg (by simp [hi]), hout]
      exact ih (sameReceiver_trans (sameReceiver_symm hsame) h)
    | true =>
      obtain ⟨hev, hfin⟩ := ih (effect_keeps_sameReceiver hi h)
      rw [List.filter_cons_of_pos hi, commandEdges_cons, eventsOf_cons, finalOf_cons, edgeEffect_command_encode,
        effect_out_of_sameReceiver hi h, hev]
      exact ⟨rfl, hfin⟩

/-! The source's loop on a stream and on its pieces (R39) -/

/-- A marker already in the buffer is not displaced by bytes appended to it. -/
theorem findFirst_append {m : Marker} {l : List Byte} {i : Nat} (h : findFirst m l = some i) (d : List Byte) :
    findFirst m (l ++ d) = some i := by
  induction l generalizing i with
  | nil => simp at h
  | cons a l ih =>
    rw [findFirst_cons] at h
    rw [List.cons_append, findFirst_cons]
    by_cases hm : a = m.first ∧ l.head? = some m.second
    · rw [if_pos hm] at h
      rw [if_pos ⟨hm.1, by simp [hm.2]⟩, h]
    · rw [if_neg hm] at h
      obtain ⟨j, hj, rfl⟩ := Option.map_eq_some_iff.1 h
      rw [ih hj, if_neg, Option.map_some]
      rintro ⟨ha, hd⟩
      cases l with
      | nil => simp at hj
      | cons b l => exact hm ⟨ha, hd⟩

theorem findFirst_lt {m : Marker} {l : List Byte} {i : Nat} (h : findFirst m l = some i) : i + 1 < l.length :=
  (List.getElem?_eq_some_iff.1 (findFirst_occurs h).2).1

/-- The loop stops where a marker is missing (R68). -/
theorem refFeed_stop {buf : List Byte}
    (h : findFirst Config.startMarker buf = none ∨ findFirst Config.endMarker buf = none) :
    refFeed [] buf = (buf, []) := by
  cases buf with
  | nil => rfl
  | cons a l =>
    simp only [refFeed, List.nil_append, List.length_cons, rescan]
    split
    case h_1 hs he => simp [hs, he] at h
    case h_2 => rfl

/-- An end marker before the first start marker: the loop drops what stands before the start marker (R68). -/
theorem refFeed_resync {buf : List Byte} {s e : Nat} (hs : findFirst Config.startMarker buf = some s)
    (he : findFirst Config.endMarker buf = some e) (h : e < s) : refFeed [] buf = refFeed [] (buf.drop s) := by
  cases buf with
  | nil => simp at hs
  | cons a l =>
    simp only [refFeed, List.nil_append, List.length_cons, rescan, hs, he, if_pos h]
    exact rescan_fuel (by simp only [List.length_drop, List.length_cons]; omega) le_rfl

/-- A frame: the loop emits its body and goes on behind its end marker (R68). -/
theorem refFeed_emit {buf : List Byte} {s e : Nat} (hs : findFirst Config.startMarker buf = some s)
    (he : findFirst Config.endMarker buf = some e) (h : s ≤ e) :
    refFeed [] buf =
      ((refFeed [] (buf.drop (e + 2))).1, slice buf (s + 2) e :: (refFeed [] (buf.drop (e + 2))).2) := by
  cases buf with
  | nil => simp at hs
  | cons a l =>
    simp only [refFeed, List.nil_append, List.length_cons, rescan, hs, he, if_neg h.not_gt]
    rw [rescan_fuel (j := ((a :: l).drop (e + 2)).length)
      (by simp only [List.length_drop, List.length_cons]; omega) le_rfl]

/-- The loop on a buffer, and then on what it left and the bytes `d`. -/
theorem refFeed_nil_append (buf d : List Byte) :
    refFeed [] (buf ++ d) =
      ((refFeed (refFeed [] buf).1 d).1, (refFeed [] buf).2 ++ (refFeed (refFeed [] buf).1 d).2) := by
  induction hn : buf.length using Nat.strong_induction_on generalizing buf with
  | _ n ih =>
    cases hs : findFirst Config.startMarker buf with
    | none =>
      rw [refFeed_stop (.inl hs)]
      rfl
    | some s =>
      cases he : findFirst Config.endMarker buf with
      | none =>
        rw [refFeed_stop (.inr he)]
        rfl
      | some e =>
        have hs' := findFirst_append hs d
        have he' := findFirst_append he d
        have hsl := findFirst_lt hs
        have hel := findFirst_lt he
        by_cases h : e < s
        · rw [refFeed_resync hs he h, refFeed_resync hs' he' h, List.drop_append_of_le_length (by omega)]
          exact ih _ (by simp only [List.length_drop]; omega) _ rfl
        · have hle : s ≤ e := Nat.le_of_not_lt h
          have hbody : slice (buf ++ d) (s + 2) e = slice buf (s + 2) e := by
            rw [slice, slice, List.take_append_of_le_length (by omega)]
          rw [refFeed_emit hs he hle, refFeed_emit hs' he' hle, List.drop_append_of_le_length (by omega), hbody,
            ih _ (by simp only [List.length_drop]; omega) _ rfl]
          rfl

/-- The chunk `c ++ d` is as good as the chunk `c` and then the chunk `d` (R39). -/
theorem refFeed_append (buf c d : List Byte) :
    refFeed buf (c ++ d) =
      ((refFeed (refFeed buf c).1 d).1, (refFeed buf c).2 ++ (refFeed (refFeed buf c).1 d).2) := by
  have h := refFeed_nil_append (buf ++ c) d
  rw [List.append_assoc] at h
  exact h

/-- The loop has run until nothing more is to do: what it leaves, it leaves again. -/
theorem refFeed_left (buf c : List Byte) : refFeed (refFeed buf c).1 [] = ((refFeed buf c).1, []) := by
  have h := refFeed_append buf c []
  rw [List.append_nil] at h
  obtain ⟨hbuf, hbodies⟩ := Prod.ext_iff.1 h
  exact Prod.ext hbuf.symm (List.append_right_eq_self.1 hbodies.symm)

/-- From a buffer in which the loop has nothing to do, chunks give what their concatenation gives. -/
theorem refFeedChunks_eq_refFeed (cs : List (List Byte)) {buf : List Byte} (h : refFeed buf [] = (buf, [])) :
    refFeedChunks buf cs = refFeed buf cs.flatten := by
  induction cs generalizing buf with
  | nil => exact h.symm
  | cons c cs ih => rw [List.flatten_cons, refFeed_append, refFeedChunks, ih (refFeed_left buf c)]

/-! The statements -/

/-- Settles O9: each command's edge runs it on the state the one before it left, and leaves the edges behind it. -/
theorem queuedCommandsRunInOrder : Obligations.QueuedCommandsRunInOrder := by
  intro is s rest
  induction is generalizing s with
  | nil => rfl
  | cons i is ih =>
    rw [commandEdges_cons, List.cons_append, List.length_cons, run_succ_of_step _ (step_withInputs_cons _ _ s),
      edgeEffect_command_encode, ih, execAll_cons, effect_withInputs]

/-- Settles O10: an edge without a command or a reset leaves the state but for the event presented, which no later edge
sees. -/
theorem idleEdgesAreInvisible : Obligations.IdleEdgesAreInvisible := by
  intro es s
  induction es generalizing s with
  | nil => exact ⟨rfl, rfl⟩
  | cons e es ih =>
    cases he : e.rst || e.inValid with
    | false =>
      have hidle : edgeEffect e s = present none s := edgeEffect_of_idle ((edgeAction_idle_iff e).2 he)
      rw [List.filter_cons_of_neg (by simp [he]), eventsOf_cons, finalOf_cons, hidle, present_out,
        eventsOf_present, present_finalOf_present]
      exact ih s
    | true =>
      obtain ⟨hev, hfin⟩ := ih (edgeEffect e s)
      rw [List.filter_cons_of_pos (by exact he), eventsOf_cons, eventsOf_cons, finalOf_cons, finalOf_cons, hev]
      exact ⟨rfl, hfin⟩

/-- Settles O25: a receive command does the same in states that agree on the receive path, and a checksum command leaves
them agreeing. -/
theorem checksumCommandsDoNotReachTheReceiver : Obligations.ChecksumCommandsDoNotReachTheReceiver := by
  intro s t is h
  obtain ⟨hev, hfin⟩ := run_of_sameReceiver is h
  exact ⟨hev, hfin, finalOf_receive_tacc is t⟩

/-- Settles O36: feeding in chunks is feeding the concatenation, and the bytes one by one have the same concatenation. -/
theorem chunkingIsInvisible : Obligations.ChunkingIsInvisible := by
  intro cs
  have h (ds : List (List Byte)) : refFeedChunks [] ds = refFeed [] ds.flatten := refFeedChunks_eq_refFeed ds rfl
  refine ⟨h cs, ?_⟩
  rw [h, h, ← List.flatMap_def, List.flatMap_singleton']

/-- Settles O6: the next edge, queued or the idle one after the queue, offers no command. -/
theorem idleEdgeChangesNothing : Obligations.IdleEdgeChangesNothing := by
  refine ⟨fun s w rest => step_withInputs_cons _ rest s, fun s h => ?_⟩
  have hs : s.withInputs [] = s := by rw [← h, withInputs_self]
  rw [← hs]
  exact step_withInputs_nil s

end Sys2Proof.Machine
end

section
/-! SUPPORT. The two fields of a command word and its number, the event ports one event at a time, where each field of
`out_rec` stands; and, with these, the statements about words and ports (30_encoding.md). -/

namespace Sys2Proof.Machine

/-! The fields of a word (R41) -/

theorem opField_toNat (w : CmdWord) : (opField w).toNat = w.toNat / 256 := by
  have := w.isLt
  simp only [opField, BitVec.extractLsb'_toNat, Nat.shiftRight_eq_div_pow]
  omega

theorem dataField_toNat (w : CmdWord) : (dataField w).toNat = w.toNat % 256 := by
  simp only [dataField, BitVec.extractLsb'_toNat, Nat.shiftRight_eq_div_pow]
  omega

theorem dataField_eq_ofNat (w : CmdWord) : dataField w = BitVec.ofNat 8 (w.toNat % 256) := by
  rw [← dataField_toNat, BitVec.ofNat_toNat, BitVec.setWidth_eq]

theorem word_eq_op_data (w : CmdWord) : w.toNat = (opField w).toNat * 256 + (dataField w).toNat := by
  rw [opField_toNat, dataField_toNat, Nat.div_add_mod']

theorem data_decode (w : CmdWord) : (decode w).data = dataField w := by
  simp only [decode]
  split <;> rfl

/-- The op map of R42 is onto the op fields: the fourth arm of `decode` is reached by op 3 alone. -/
theorem op_decode (w : CmdWord) : (decode w).op = opField w := by
  have := (opField w).isLt
  apply BitVec.eq_of_toNat_eq
  simp only [decode]
  split
  case h_1 h | h_2 h | h_3 h => exact h.symm
  case h_4 h0 h1 h2 =>
    change _ ≠ _ at h0 h1 h2
    show 3 = (opField w).toNat
    omega

theorem encode_decode (w : CmdWord) : encode (decode w) = w := by
  apply BitVec.eq_of_toNat_eq
  rw [Laws.encode_toNat, op_decode, data_decode, ← word_eq_op_data]

/-! A number as a command word (log 3) -/

theorem wellFormedWord_iff (v : Nat) : wellFormedWord v = true ↔ v < 1024 := decide_eq_true_iff

theorem decodeNumber_toNat (w : CmdWord) : decodeNumber w.toNat = .ok (decode w) := by
  rw [decodeNumber, if_pos ((wellFormedWord_iff _).2 w.isLt), BitVec.ofNat_toNat, BitVec.setWidth_eq]

theorem decodeNumber_refuses {v : Nat} (h : 1024 ≤ v) : decodeNumber v = .error (.notACommandWord v) := by
  rw [decodeNumber, if_neg (by rw [wellFormedWord_iff]; omega)]

/-- The low `nbits` bits of a word's number are the word, where there are ten or more. -/
theorem commandWord_toNat {nbits : Nat} (h : 10 ≤ nbits) (w : CmdWord) : commandWord nbits w.toNat = some w := by
  have hlt : w.toNat < 2 ^ nbits := w.isLt.trans_le (Nat.pow_le_pow_right two_pos h)
  rw [commandWord, Nat.mod_eq_of_lt hlt, if_pos ((wellFormedWord_iff _).2 w.isLt), BitVec.ofNat_toNat,
    BitVec.setWidth_eq]

/-- A step in which a command is accepted is the command, the edge taken off the queue. -/
theorem step_command_cons (w : CmdWord) (es : List PortIn) (s : State) :
    step (s.withInputs (PortIn.command w :: es)) = exec (decode w) (s.withInputs es) := by
  rw [step_withInputs_cons, edgeEffect_command, exec_eq_effect, effect_withInputs]

theorem withFetchWord_toNat {nbits : Nat} (h : 10 ≤ nbits) (s : State) (w : CmdWord) :
    s.withFetchWord nbits w.toNat = s.withInputs (PortIn.command w :: s.inputs) := by
  simp only [State.withFetchWord, offerWord, commandWord_toNat h]
  rfl

theorem step_withFetchWord {nbits : Nat} (h : 10 ≤ nbits) (s : State) (w : CmdWord) :
    step (s.withFetchWord nbits w.toNat) = exec (decode w) s := by
  rw [withFetchWord_toNat h, step_command_cons, withInputs_self]

/-! The event ports (R44, R47) -/

theorem ports_of_no_event {s : State} (h : s.out = none) :
    s.outValid = 0 ∧ s.outKind = 0 ∧ s.outByte = 0 ∧ s.outRec = 0 := by
  simp [State.outValid, State.outKind, State.outByte, State.outRec, h]

theorem ports_of_event {s : State} {e : Event} (h : s.out = some e) :
    s.outValid = 1 ∧ s.outKind = eventKind e ∧ s.outByte = eventByte e ∧ s.outRec = eventRec e := by
  simp [State.outValid, State.outKind, State.outByte, State.outRec, h]

theorem eventKind_ne_three (e : Event) : eventKind e ≠ 3 := by
  cases e <;> simp [eventKind]

theorem outKind_ne_three (s : State) : s.outKind ≠ 3 := by
  cases h : s.out with
  | none =>
    rw [(ports_of_no_event h).2.1]
    decide
  | some e =>
    rw [(ports_of_event h).2.1]
    exact eventKind_ne_three e

/-! The fields of `out_rec` (R45) -/

theorem recField_getLsbD_below {w lo i : Nat} (v : BitVec w) (h : i < lo) : (recField lo v).getLsbD i = false := by
  simp [recField, h]

theorem recField_getLsbD_above {w lo i : Nat} (v : BitVec w) (h : lo + w ≤ i) :
    (recField lo v).getLsbD i = false := by
  simp [recField, BitVec.getLsbD_of_ge v (i - lo) (by omega)]

theorem recField_getLsbD_within {w lo j : Nat} (v : BitVec w) (h : lo + j < 95) :
    (recField lo v).getLsbD (lo + j) = v.getLsbD j := by
  simp [recField, h]

theorem recField_getLsbD_flag {lo : Nat} (b : Bool) (h : lo < 95) :
    (recField lo (BitVec.ofBool b)).getLsbD lo = b := by
  simp [recField, h]

theorem extractLsb'_eq_of_getLsbD {w lo : Nat} {x : RecWord} {v : BitVec w}
    (h : ∀ j < w, x.getLsbD (lo + j) = v.getLsbD j) : x.extractLsb' lo w = v := by
  apply BitVec.eq_of_getLsbD_eq
  intro j hj
  simp [hj, h j hj]

/-- No two fields of R45 share a bit: at a bit of one field every other field is 0. -/
theorem packRecord_layout (r : FrameRecord) :
    (packRecord r).extractLsb' 0 17 = r.bodyLen ∧ (packRecord r).extractLsb' 17 17 = r.actLen ∧
    (packRecord r).extractLsb' 34 16 = r.declLen ∧ (packRecord r).extractLsb' 50 16 = r.declChk ∧
    (packRecord r).extractLsb' 66 16 = r.compChk ∧ (packRecord r).extractLsb' 82 8 = r.id ∧
    (packRecord r).getLsbD 90 = r.idValid ∧ (packRecord r).getLsbD 91 = r.runt ∧
    (packRecord r).getLsbD 92 = r.lenErr ∧ (packRecord r).getLsbD 93 = r.chkErr ∧
    (packRecord r).getLsbD 94 = r.ok := by
  refine ⟨extractLsb'_eq_of_getLsbD ?_, extractLsb'_eq_of_getLsbD ?_, extractLsb'_eq_of_getLsbD ?_,
    extractLsb'_eq_of_getLsbD ?_, extractLsb'_eq_of_getLsbD ?_, extractLsb'_eq_of_getLsbD ?_, ?_, ?_, ?_, ?_, ?_⟩
  all_goals
    intros
    simp (disch := omega) only [packRecord, BitVec.getLsbD_or, recField_getLsbD_below, recField_getLsbD_above,
      recField_getLsbD_within, recField_getLsbD_flag, Bool.or_false, Bool.false_or]

/-! The port `ck_value` (R46) -/

theorem ckValue_toNat (s : State) : s.ckValue.toNat = s.tacc.toNat := zext16_toNat s.tacc

theorem ckValue_low_bits (s : State) : s.ckValue.extractLsb' 0 15 = s.tacc := by
  apply BitVec.eq_of_toNat_eq
  rw [BitVec.extractLsb'_toNat, ckValue_toNat, Nat.shiftRight_zero, Nat.mod_eq_of_lt s.tacc.isLt]

theorem ckValue_top_bit (s : State) : s.ckValue.getLsbD 15 = false := by
  rw [← BitVec.testBit_toNat, ckValue_toNat]
  exact Nat.testBit_lt_two_pow s.tacc.isLt

/-! The statements -/

/-- Settles O2: `encode` writes the two fields `decode` reads, and every number of ten bits is of that form. -/
theorem encodeAndDecodeAgree : Obligations.EncodeAndDecodeAgree := by
  refine ⟨fun i => ⟨decode_encode i, Laws.encode_toNat i, fun nbits h => ⟨?_, fun s => ?_⟩⟩,
    fun w => ⟨encode_decode w, decodeNumber_toNat w⟩, fun v => decodeNumber_refuses⟩
  · rw [decodeTableWord, commandWord_toNat h, Option.map_some, decode_encode]
  · rw [step_withFetchWord h, decode_encode]

/-- Settles O1: the match of `decode` on the op field is the match on `w / 256`. -/
theorem decodeReadsOpAndData : Obligations.DecodeReadsOpAndData := by
  intro w
  rw [← opField_toNat w, ← dataField_eq_ofNat w]
  rfl

/-- Settles O3: each word is the encoding of its command. -/
theorem writtenWordsDecode : Obligations.WrittenWordsDecode :=
  ⟨decode_encode (.rxb 0xA0), decode_encode (.flush 0), decode_encode (.flush 0xFF), decode_encode (.ckclr 0x37),
    decode_encode (.ckadd 0x84)⟩

/-- Settles O4: an accepted word runs as its command, and every edge with `rst = 1` is the reset edge. -/
theorem acceptedWordIsOneStep : Obligations.AcceptedWordIsOneStep := by
  refine ⟨word_eq_op_data, fun s w rest => step_command_cons w rest s, fun s v w rest => ?_⟩
  have hreset (v : Bool) (w : CmdWord) : edgeEffect ⟨true, v, w⟩ s = resetEdge s := edgeEffect_reset rfl
  rw [step_withInputs_cons, step_withInputs_cons, hreset, hreset]

/-- Settles O7: the ports are those of no event, and an idle or reset edge presents none. -/
theorem noEventMeansZeroOutputs : Obligations.NoEventMeansZeroOutputs := by
  refine ⟨fun s => ports_of_no_event, fun s w rest => ⟨_, step_withInputs_cons _ rest s, rfl⟩,
    fun s v w rest => ⟨_, step_withInputs_cons _ rest s, rfl⟩, fun s b h => ?_⟩
  obtain ⟨hvalid, hkind, -, -⟩ := ports_of_event h
  exact ⟨hvalid, hkind⟩

/-- Settles O18: the ports of an event are its kind, byte and record. -/
theorem eventPortsShowTheEvent : Obligations.EventPortsShowTheEvent := by
  refine ⟨fun s b => ports_of_event, fun s r => ports_of_event, fun s k h => ?_, outKind_ne_three⟩
  obtain ⟨hvalid, hkind, hbyte, hrec⟩ := ports_of_event h
  refine ⟨hvalid, hkind, hbyte, ?_⟩
  rw [hrec, eventRec, BitVec.toNat_setWidth_of_le (by decide)]

/-- Settles O19: `out_rec` is the packed record, whose fields share no bit. -/
theorem endRecordLayout : Obligations.EndRecordLayout := by
  intro s r h
  obtain ⟨-, -, -, hrec⟩ := ports_of_event h
  rw [hrec]
  exact packRecord_layout r

/-- Settles O20: `ck_value` is the number `tacc`, which CKCLR and CKADD set. -/
theorem ckValueShowsTheAccumulator : Obligations.CkValueShowsTheAccumulator := by
  refine ⟨fun s => ⟨ckValue_low_bits s, ckValue_top_bit s⟩, fun s d => ⟨_, exec_eq_effect _ s, rfl⟩,
    fun s b => ⟨_, exec_eq_effect _ s, ?_⟩⟩
  rw [ckValue_toNat, ckValue_toNat]
  exact accumulate_toNat s.tacc b

end Sys2Proof.Machine
end

section
/-! SUPPORT. The bytes of an encoded frame, the verdict on its body, the record the checker forms of a body, what the event
port shows of a framed body, and what a consumer makes of the events; and, with these, the statements about frames on the
wire (30_encoding.md). -/

namespace Sys2Proof.Machine

/-! The bytes of an encoded frame (R50, R54) -/

theorem byteAt_append_right {l : List Byte} {i j : Nat} (m : List Byte) (h : j = l.length + i) :
    byteAt (l ++ m) j = byteAt m i := by
  rw [byteAt, byteAt, h, List.getElem?_append_right (Nat.le_add_right _ _), Nat.add_sub_cancel_left]

theorem slice_middle {l p : List Byte} {i j : Nat} (m : List Byte) (hi : i = l.length) (hj : j = i + p.length) :
    slice (l ++ p ++ m) i j = p := by
  rw [slice, List.take_left' (by simp [hi, hj]), List.drop_left' hi.symm]

/-- A 16-bit number written as a field is read back (R30). -/
theorem pairValue_fieldBytes {v : Nat} (h : v < 65536) :
    pairValue (byteAt (fieldBytes v) 0) (byteAt (fieldBytes v) 1) = v := by
  simp only [byteAt, fieldBytes, pairValue, List.getElem?_cons_zero, List.getElem?_cons_succ, Option.getD_some,
    BitVec.toNat_ofNat]
  omega

theorem checksum_lt (p : List Byte) : (checksum p).toNat < 65536 := (checksum p).isLt.trans (by decide)

theorem encodedBody_length (p : List Byte) : (encodedBody p).length = p.length + 4 := by
  simp [encodedBody, fieldBytes]

theorem framed_length (c : List Byte) : (framed c).length = c.length + 4 := by
  simp [framed, markerBytes]

theorem payloadOf_encodedBody (p : List Byte) : payloadOf (encodedBody p) = p :=
  slice_middle _ rfl (by rw [encodedBody_length]; omega)

theorem messageOf_encodedBody (p : List Byte) : messageOf (encodedBody p) = (p.head?, p.tail) := by
  rw [messageOf, payloadOf_encodedBody]

/-- The byte at offset `i` behind the payload of an encoded body. -/
theorem byteAt_encodedBody_checksum (p : List Byte) {i j : Nat} (h : j = p.length + 2 + i) :
    byteAt (encodedBody p) j = byteAt (fieldBytes (checksum p).toNat) i :=
  byteAt_append_right _ (by simp [fieldBytes, h])

/-- The verdict on an encoded body: it passes, and reports the payload's length, checksum and first byte (R81). -/
theorem validate_encodedBody {p : List Byte} (h : p.length < 65536) :
    validate (encodedBody p) =
      { runt := false, lenErr := false, chkErr := false, ok := true, declLen := BitVec.ofNat 16 p.length,
        declChk := zext16 (checksum p), compChk := zext16 (checksum p), actLen := p.length,
        id := byteAt p 0, idValid := decide (1 ≤ p.length) } := by
  have hlen : pairValue (byteAt (encodedBody p) 0) (byteAt (encodedBody p) 1) = p.length := pairValue_fieldBytes h
  have hchk : pairValue (byteAt (encodedBody p) (p.length + 2)) (byteAt (encodedBody p) (p.length + 3)) =
      (checksum p).toNat := by
    rw [byteAt_encodedBody_checksum p (i := 0) (by omega), byteAt_encodedBody_checksum p (i := 1) (by omega),
      pairValue_fieldBytes (checksum_lt p)]
  have hid : (if 1 ≤ p.length then byteAt (encodedBody p) 2 else 0#8) = byteAt p 0 := by
    cases p with
    | nil => rfl
    | cons a p => simp [encodedBody, fieldBytes, byteAt]
  simp [validate, encodedBody_length, payloadOf_encodedBody, hlen, hchk, hid, zext16]

/-! The record of a body (R91) -/

theorem checkerHolds_bodyLen {s : State} {c : List Byte} (hc : CheckerHolds s c) :
    s.n = BitVec.ofNat 17 (min c.length Config.nmax) := by
  rw [← hc.n, BitVec.ofNat_toNat, BitVec.setWidth_eq]

/-- The true payload count where the counter is not saturated, and the counter's own where it is (R89). -/
theorem checkerHolds_actLen {s : State} {c : List Byte} (hc : CheckerHolds s c) (h : 4 ≤ c.length) :
    (s.n - 4).toNat = min (c.length - 4) (Config.nmax - 4) := by
  have hle : (4 : Count17) ≤ s.n := (checkerHolds_le_n_iff hc (k := 4) (by decide)).2 h
  rw [BitVec.toNat_sub_of_le hle, hc.n, show (4 : Count17).toNat = 4 from rfl]
  omega

/-- No 16-bit length reaches the count at which the counter stands still, so saturation changes no verdict (R89). -/
theorem lengthError_eq {s : State} {c : List Byte} (hc : CheckerHolds s c) (h : 4 ≤ c.length) (hi lo : Byte) :
    lengthError (bigEndian hi lo) (s.n - 4) = decide (pairValue hi lo ≠ c.length - 4) := by
  have := (bigEndian hi lo).isLt
  rw [Bool.eq_iff_iff, lengthError_iff, decide_eq_true_iff, checkerHolds_actLen hc h]
  rw [bigEndian_toNat] at *
  simp only [Config.nmax]
  omega

theorem checksumError_eq (hi lo : Byte) (a : Sum15) :
    checksumError (bigEndian hi lo) (zext16 a) = decide (pairValue hi lo ≠ a.toNat) := by
  rw [Bool.eq_iff_iff, checksumError_iff, decide_eq_true_iff, bigEndian_toNat, zext16_toNat]

theorem hasId_eq {s : State} {c : List Byte} (hc : CheckerHolds s c) : hasId s.n = decide (5 ≤ c.length) := by
  rw [Bool.eq_iff_iff, hasId_iff, decide_eq_true_iff, checkerHolds_le_n_iff hc (by decide)]

/-- A checker that holds what a body leaves forms the record of the body's verdict (R91). -/
theorem record_eq_expectedRecord {s : State} {c : List Byte} (hc : CheckerHolds s c) : record s = expectedRecord c := by
  obtain ⟨hn, heq⟩ | ⟨hn, heq⟩ := record_cases s <;> rw [heq]
  · have h : c.length < 4 := by
      rw [hc.n, Config.nmax] at hn
      omega
    simp [runtRecord, expectedRecord, validate, h, checkerHolds_bodyLen hc]
  · have h : 4 ≤ c.length := (checkerHolds_le_n_iff hc (by decide)).1 hn
    have hact : s.n - 4 = BitVec.ofNat 17 (min (c.length - 4) (Config.nmax - 4)) := by
      rw [← checkerHolds_actLen hc h, BitVec.ofNat_toNat, BitVec.setWidth_eq]
    have ht0 : s.t0 = byteAt c (c.length - 1) := by rw [hc.t0, if_pos (by omega)]
    have ht1 : s.t1 = byteAt c (c.length - 2) := by rw [hc.t1, if_pos (by omega)]
    rw [fullRecord, lengthError_eq hc h, checksumError_eq, hasId_eq hc, hact]
    simp only [checkerHolds_bodyLen hc, hc.lh, hc.ll, hc.rid, hc.racc, ht0, ht1, passes, expectedRecord, validate,
      if_neg h.not_gt, bigEndian, pairValue, zext16, BitVec.ofNat_toNat, decide_eq_true_eq]
    rfl

/-! A framed body on the event port (R54, R71) -/

theorem outputsOf_feed_cons (b : Byte) (bs : List Byte) (s : State) :
    outputsOf (feed (b :: bs)) s =
      (effect (.rxb b) s).out :: outputsOf (feed bs) (effect (.rxb b) s) := by
  change outputsOf (PortIn.command (encode (.rxb b)) :: feed bs) s = _
  rw [outputsOf_cons, edgeEffect_command_encode]

/-- In BODY, the byte `p` is held after the confirmed bytes `c`. -/
structure HoldsByte (s : State) (c : List Byte) (p : Byte) : Prop where
  mode : s.mode = .body
  pv : s.pv = true
  pend : s.pend = p
  checker : CheckerHolds s c

/-- The first byte after a start marker is held, and nothing is shown (R71). -/
theorem effect_rxb_hold {s : State} (b : Byte) (hm : s.mode = .body) (hc : FrameClear s) :
    (effect (.rxb b) s).out = none ∧ HoldsByte (effect (.rxb b) s) [] b := by
  have heq : effect (.rxb b) s = present none { s with pend := b, pv := true } := by
    simp [effect_rxb_body hm, rxbBody, completesEnd, hc.pv]
  obtain ⟨n, lh, ll, rid, t0, t1, racc⟩ := checkerHolds_nil hc
  rw [heq]
  exact ⟨rfl, hm, rfl, rfl, n, lh, ll, rid, t0, t1, racc⟩

/-- A byte that completes no end marker shows the held one, and is held in its place (R71). -/
theorem effect_rxb_confirm {s : State} {c : List Byte} {p b : Byte} (h : HoldsByte s c p)
    (hb : ¬ (p = 0xB0 ∧ b = 0xB3)) :
    (effect (.rxb b) s).out = some (.byte p) ∧ HoldsByte (effect (.rxb b) s) (c ++ [p]) b := by
  obtain ⟨hm, hp, rfl, hc⟩ := h
  have hgoesOn : ¬ completesEnd s.pv s.pend b = true := by
    rw [completesEnd_iff]
    exact fun hend => hb hend.2
  have heq : effect (.rxb b) s = present (some (.byte s.pend)) { confirm s s.pend with pend := b } := by
    rw [effect_rxb_body hm, rxbBody, if_neg hgoesOn, if_pos hp]
  obtain ⟨n, lh, ll, rid, t0, t1, racc⟩ := checkerHolds_confirm s.pend hc
  rw [heq]
  exact ⟨rfl, hm, hp, rfl, n, lh, ll, rid, t0, t1, racc⟩

/-- The byte that completes an end marker shows the record of the confirmed bytes (R71, R91). -/
theorem effect_rxb_end_out {s : State} {c : List Byte} (h : HoldsByte s c 0xB0) :
    (effect (.rxb 0xB3) s).out = some (.frameEnd (expectedRecord c)) := by
  rw [effect_rxb_body h.mode, rxbBody, if_pos ((completesEnd_iff _ _ _).2 ⟨h.pv, h.pend, rfl⟩), present_out,
    record_eq_expectedRecord h.checker]

theorem noEnd_cons {a : Byte} {l : List Byte} (h : NoEnd (a :: l)) :
    ¬ (a = 0xB0 ∧ l.head? = some 0xB3) ∧ NoEnd l := by
  rw [NoEnd, findFirst_cons] at h
  split at h
  case isTrue => simp at h
  case isFalse hm => exact ⟨hm, Option.map_eq_none_iff.1 h⟩

/-- From a held byte on: every byte of the body is shown by the one after it, and END shows the record of the whole. -/
theorem outputsOf_feed_from_held {l c : List Byte} {p : Byte} {s : State} (h : HoldsByte s c p)
    (hl : NoEnd (p :: l)) :
    outputsOf (feed (l ++ [0xB0, 0xB3])) s =
      (p :: l).map (fun b => some (.byte b)) ++ [some (.frameEnd (expectedRecord (c ++ p :: l)))] := by
  induction l generalizing s c p with
  | nil =>
    obtain ⟨hout, hheld⟩ := effect_rxb_confirm h (b := 0xB0) (by simp)
    rw [List.nil_append, outputsOf_feed_cons, hout, outputsOf_feed_cons, effect_rxb_end_out hheld]
    rfl
  | cons b l ih =>
    obtain ⟨hb, hl⟩ := noEnd_cons hl
    obtain ⟨hout, hheld⟩ := effect_rxb_confirm h (b := b) (by simpa using hb)
    rw [List.cons_append, outputsOf_feed_cons, hout, ih hheld hl]
    simp

/-- From a start marker on: the first byte of the body is held, or the first byte of END where the body is empty. -/
theorem outputsOf_feed_from_start {l : List Byte} {s : State} (hm : s.mode = .body) (hc : FrameClear s)
    (hl : NoEnd l) :
    outputsOf (feed (l ++ [0xB0, 0xB3])) s =
      none :: l.map (fun b => some (.byte b)) ++ [some (.frameEnd (expectedRecord l))] := by
  cases l with
  | nil =>
    obtain ⟨hout, hheld⟩ := effect_rxb_hold 0xB0 hm hc
    rw [List.nil_append, outputsOf_feed_cons, hout, outputsOf_feed_cons, effect_rxb_end_out hheld]
    rfl
  | cons b l =>
    obtain ⟨hout, hheld⟩ := effect_rxb_hold b hm hc
    rw [List.cons_append, outputsOf_feed_cons, hout, outputsOf_feed_from_held hheld hl]
    rfl

theorem effect_rxb_start_first {s : State} (hm : s.mode = .hunt) :
    effect (.rxb 0xA0) s = present none { s with saw := true } := by
  rw [effect_rxb_hunt hm, rxbHunt, if_neg (by simp [completesStart_iff])]
  rfl

theorem effect_rxb_start_second {s : State} (hm : s.mode = .hunt) (hs : s.saw = true) :
    effect (.rxb 0xA2) s = present none (enterMode .body (clearFrame s)) := by
  rw [effect_rxb_hunt hm, rxbHunt, if_pos ((completesStart_iff _ _).2 ⟨hs, rfl⟩)]

/-- In HUNT, START shows nothing and leaves a clear frame, whatever `saw` was (R70). -/
theorem outputsOf_feed_start {s : State} (hm : s.mode = .hunt) (xs : List Byte) :
    ∃ t, t.mode = .body ∧ FrameClear t ∧
      outputsOf (feed (0xA0 :: 0xA2 :: xs)) s = none :: none :: outputsOf (feed xs) t := by
  refine ⟨_, rfl, frameClear_enter none .body (present none { s with saw := true }), ?_⟩
  rw [outputsOf_feed_cons, outputsOf_feed_cons, effect_rxb_start_first hm, effect_rxb_start_second (by exact hm) rfl]
  rfl

/-- A framed body that holds no END, edge by edge, from any state in HUNT (R54, R71). -/
theorem outputsOf_feed_framed {c : List Byte} {s : State} (hm : s.mode = .hunt) (hc : NoEnd c) :
    outputsOf (feed (framed c)) s =
      [none, none, none] ++ c.map (fun b => some (.byte b)) ++ [some (.frameEnd (expectedRecord c))] := by
  have hbytes : framed c = 0xA0 :: 0xA2 :: (c ++ [0xB0, 0xB3]) := rfl
  obtain ⟨t, hbody, hclear, hstart⟩ := outputsOf_feed_start hm (c ++ [0xB0, 0xB3])
  rw [hbytes, hstart, outputsOf_feed_from_start hbody hclear hc]
  rfl

theorem eventsOf_feed_framed {c : List Byte} {s : State} (hm : s.mode = .hunt) (hc : NoEnd c) :
    eventsOf (feed (framed c)) s = c.map Event.byte ++ [.frameEnd (expectedRecord c)] := by
  rw [eventsOf, outputsOf_feed_framed hm hc]
  simp [List.filterMap_map]

/-! The consumer, from the events alone (R121) -/

theorem cycle_of_no_reset (c : Consumer) (o : Option Event) : c.cycle false o = o.toList.foldl Consumer.take c := by
  cases o <;> rfl

/-- Where no edge is a reset, the consumer takes the events of the run, in order. -/
theorem consume_commandEdges_snd (is : List Instr) (s : State) (c : Consumer) :
    (consume (commandEdges is) (s, c)).2 = (eventsOf (commandEdges is) s).foldl Consumer.take c := by
  induction is generalizing s c with
  | nil => rfl
  | cons i is ih =>
    rw [commandEdges_cons, consume_cons, ih, eventsOf_cons, List.foldl_append, ← cycle_of_no_reset]
    rfl

theorem foldl_take_bytes (l : List Byte) (c : Consumer) :
    (l.map Event.byte).foldl Consumer.take c = { c with pending := c.pending ++ l } := by
  induction l generalizing c with
  | nil => simp
  | cons b l ih => simp [ih, Consumer.take]

/-- A framed body that holds no END is delivered exactly when its record passes. -/
theorem consume_feed_framed {c : List Byte} {s : State} (hm : s.mode = .hunt) (hc : NoEnd c) :
    (consume (feed (framed c)) (s, Consumer.fresh)).2 =
      Consumer.take ⟨c, []⟩ (.frameEnd (expectedRecord c)) := by
  rw [feed, consume_commandEdges_snd, ← feed, eventsOf_feed_framed hm hc, List.foldl_append, foldl_take_bytes]
  rfl

/-- The record of an encoded body passes, with the first payload byte as its id where there is one. -/
theorem take_encodedBody {p : List Byte} (h : p.length < 65536) (b : List Byte) :
    Consumer.take ⟨b, []⟩ (.frameEnd (expectedRecord (encodedBody p))) = ⟨[], [⟨b, p.head?⟩]⟩ := by
  cases p with
  | nil => simp [Consumer.take, expectedRecord, validate_encodedBody h]
  | cons a p => simp [Consumer.take, expectedRecord, validate_encodedBody h, byteAt]

/-! The reference encoder (R56) -/

theorem encodeRef_of_lt {p : List Byte} (h : p.length < 1024) : encodeRef p = some (framed (encodedBody p)) := if_pos h

theorem encodeRef_of_le {p : List Byte} (h : 1024 ≤ p.length) : encodeRef p = none := if_neg h.not_gt

theorem framed_encodedBody (p : List Byte) :
    framed (encodedBody p) = markerBytes Config.startMarker ++ fieldBytes p.length ++ p ++
      (fieldBytes (checksum p).toNat ++ markerBytes Config.endMarker) := by
  simp [framed, encodedBody]

/-- Behind the payload of a frame stand the checksum and the end marker. -/
theorem byteAt_frame_trailer (p : List Byte) {i j : Nat} (h : j = p.length + 4 + i) :
    byteAt (framed (encodedBody p)) j =
      byteAt (fieldBytes (checksum p).toNat ++ markerBytes Config.endMarker) i := by
  rw [framed_encodedBody]
  exact byteAt_append_right _ (by simp [fieldBytes, markerBytes, h])

/-! The statements -/

/-- Settles O50: the body's bytes are pending when END comes, and the record of an encoded body passes. -/
theorem frameLineDeliversItsPayload : Obligations.FrameLineDeliversItsPayload := by
  intro p hp hend
  refine ⟨feed (framed (encodedBody p)), ?_, ?_, messageOf_encodedBody p⟩
  · rw [AsmLine.expand, encodeRef_of_lt hp, Option.map_some]
  · rw [consume_feed_framed rfl hend, take_encodedBody (by omega)]

/-- Settles O31: the frame is the start marker, the length, the payload, and the trailer. -/
theorem encodedFrameLayout : Obligations.EncodedFrameLayout := by
  refine ⟨fun p hp => ⟨_, encodeRef_of_lt hp, ?_⟩, fun p => encodeRef_of_le⟩
  have hlen : (framed (encodedBody p)).length = 8 + p.length := by
    rw [framed_length, encodedBody_length]
    omega
  refine ⟨hlen, by omega, by omega, rfl, rfl, pairValue_fieldBytes (by omega), ?_, ?_, ?_, ?_⟩
  · rw [framed_encodedBody]
    exact slice_middle _ rfl rfl
  · rw [byteAt_frame_trailer p (i := 0) (by omega), byteAt_frame_trailer p (i := 1) (by omega)]
    exact pairValue_fieldBytes (checksum_lt p)
  · rw [byteAt_frame_trailer p (i := 2) (by omega)]
    rfl
  · rw [byteAt_frame_trailer p (i := 3) (by omega)]
    rfl

end Sys2Proof.Machine
end

section
/-! SUPPORT. The checksum as the sum of the bytes modulo 2^15, what a run of commands leaves in the standalone
accumulator; and, with these, the statements about the checksum generator (40_checksum.md). -/

namespace Sys2Proof.Machine

/-! The unbounded sum of the bytes -/

/-- The sum of the bytes as unbounded integers, which R60 and R65 speak of. -/
def byteSum (l : List Byte) : Nat := (l.map BitVec.toNat).sum

@[simp] theorem byteSum_nil : byteSum [] = 0 := rfl

@[simp] theorem byteSum_cons (b : Byte) (l : List Byte) : byteSum (b :: l) = b.toNat + byteSum l := rfl

@[simp] theorem byteSum_append (l m : List Byte) : byteSum (l ++ m) = byteSum l + byteSum m := by
  simp [byteSum]

theorem byteSum_perm {l m : List Byte} (h : l.Perm m) : byteSum l = byteSum m :=
  (h.map BitVec.toNat).sum_eq

theorem byteSum_set {l : List Byte} {i : Nat} (b : Byte) (h : i < l.length) :
    byteSum (l.set i b) + (byteAt l i).toNat = byteSum l + b.toNat := by
  induction l generalizing i with
  | nil => simp at h
  | cons a l ih =>
    cases i with
    | zero =>
      have hat : byteAt (a :: l) 0 = a := rfl
      rw [List.set_cons_zero, byteSum_cons, byteSum_cons, hat]
      omega
    | succ i =>
      have hat : byteAt (a :: l) (i + 1) = byteAt l i := by simp [byteAt]
      have := ih (Nat.lt_of_succ_lt_succ h)
      rw [List.set_cons_succ, byteSum_cons, byteSum_cons, hat]
      omega

/-! The checksum as that sum, reduced (R60) -/

/-- An accumulator that holds a byte and wraps modulo its own power of two holds the sum so reduced: reduction commutes
with addition. -/
theorem foldl_add_setWidth_toNat {w : Nat} (hw : 8 ≤ w) (l : List Byte) (a : BitVec w) :
    (l.foldl (fun acc b => acc + b.setWidth w) a).toNat = (a.toNat + byteSum l) % 2 ^ w := by
  induction l generalizing a with
  | nil => rw [List.foldl_nil, byteSum_nil, Nat.add_zero, Nat.mod_eq_of_lt a.isLt]
  | cons b l ih =>
    rw [List.foldl_cons, ih, BitVec.toNat_add, BitVec.toNat_setWidth_of_le hw, Nat.mod_add_mod, byteSum_cons,
      Nat.add_assoc]

theorem foldl_add_setWidth_zero_toNat {w : Nat} (hw : 8 ≤ w) (l : List Byte) :
    (l.foldl (fun (acc : BitVec w) b => acc + b.setWidth w) 0).toNat = byteSum l % 2 ^ w := by
  simpa using foldl_add_setWidth_toNat hw l 0

theorem checksum_toNat (l : List Byte) : (checksum l).toNat = byteSum l % 32768 :=
  foldl_add_setWidth_zero_toNat (by decide) l

theorem checksum_eq_iff (l m : List Byte) : checksum l = checksum m ↔ byteSum l % 32768 = byteSum m % 32768 := by
  rw [BitVec.toNat_eq, checksum_toNat, checksum_toNat]

/-- Replacing a byte moves the sum by less than 256, so by no multiple of 2^15 but 0 (R65). -/
theorem checksum_set_eq_iff {l : List Byte} {i : Nat} (b : Byte) (h : i < l.length) :
    checksum (l.set i b) = checksum l ↔ byteAt l i = b := by
  have hsum := byteSum_set b h
  have := (byteAt l i).isLt
  have := b.isLt
  rw [checksum_eq_iff, BitVec.toNat_eq]
  omega

/-! The standalone accumulator over a list of commands (R64) -/

theorem checksum_eq_foldl (l : List Byte) : checksum l = l.foldl accumulate 0 := rfl

@[simp] theorem addedBytes_nil : addedBytes [] = [] := rfl

@[simp] theorem addedBytes_cons_ckadd (b : Byte) (is : List Instr) :
    addedBytes (.ckadd b :: is) = b :: addedBytes is := rfl

theorem addedBytes_cons_receive {i : Instr} (hi : isReceive i = true) (is : List Instr) :
    addedBytes (i :: is) = addedBytes is := by
  cases i with
  | rxb b => rfl
  | flush d => rfl
  | ckclr d => simp [isReceive] at hi
  | ckadd b => simp [isReceive] at hi

theorem noClear_tail {i : Instr} {is : List Instr} (h : NoClear (i :: is)) : NoClear is :=
  fun d hd => h d (List.mem_cons_of_mem i hd)

/-- A command that is no CKCLR is a receive command or a CKADD. -/
theorem receive_or_ckadd_of_noClear {i : Instr} {is : List Instr} (h : NoClear (i :: is)) :
    isReceive i = true ∨ ∃ b, i = .ckadd b := by
  cases i with
  | rxb b => exact .inl rfl
  | flush d => exact .inl rfl
  | ckclr d => exact absurd List.mem_cons_self (h d)
  | ckadd b => exact .inr ⟨b, rfl⟩

/-- Without a CKCLR, a run adds to what `tacc` held the bytes of its CKADDs, and the receive commands nothing. -/
theorem finalOf_tacc_of_noClear {is : List Instr} (h : NoClear is) (s : State) :
    (finalOf (commandEdges is) s).tacc = (addedBytes is).foldl accumulate s.tacc := by
  induction is generalizing s with
  | nil => rfl
  | cons i is ih =>
    rw [commandEdges_cons, finalOf_cons, edgeEffect_command_encode, ih (noClear_tail h)]
    obtain hi | ⟨b, rfl⟩ := receive_or_ckadd_of_noClear h
    · rw [effect_tacc hi, addedBytes_cons_receive hi]
    · rfl

theorem finalOf_ckclr_tacc (d : Byte) {is : List Instr} (h : NoClear is) (s : State) :
    (finalOf (commandEdges (.ckclr d :: is)) s).tacc = checksum (addedBytes is) := by
  rw [commandEdges_cons, finalOf_cons, edgeEffect_command_encode, finalOf_tacc_of_noClear h, checksum_eq_foldl]
  rfl

/-! One checksum command (R62, R63) -/

/-- The number of a command's word, `op * 256 + data` (R41), decodes to the command. -/
theorem decode_ofNat (i : Instr) {base : Nat} (h : base = i.op.toNat * 256) :
    decode (BitVec.ofNat 10 (base + i.data.toNat)) = i := by
  rw [h]
  exact decode_encode i

theorem accumulate_eq_ofNat (a : Sum15) (b : Byte) :
    accumulate a b = BitVec.ofNat 15 ((a.toNat + b.toNat) % 32768) := by
  rw [← accumulate_toNat, BitVec.ofNat_toNat, BitVec.setWidth_eq]

/-! The statements -/

/-- Settles O22: both accumulators hold the sum modulo their own power of two, and 2^15 divides the wider one's. -/
theorem checksumIsTheSumModulo : Obligations.ChecksumIsTheSumModulo := by
  intro l
  refine ⟨checksum_toNat l, fun w hw => ?_⟩
  have hdvd : 32768 ∣ 2 ^ w := pow_dvd_pow 2 hw
  rw [foldl_add_setWidth_zero_toNat (by omega), Nat.mod_mod_of_dvd _ hdvd, checksum_toNat]

/-- Settles O23: two checksums are equal exactly when the sums agree modulo 2^15; replacing one byte breaks that, while
reordering and zero bytes leave the sum as it is. -/
theorem checksumDetection : Obligations.ChecksumDetection := by
  refine ⟨fun l i b hi hb => mt (checksum_set_eq_iff b hi).1 hb, fun l m h => ?_, fun l m => ?_, checksum_eq_iff⟩
  · rw [checksum_eq_iff, byteSum_perm h]
  · rw [checksum_eq_iff]
    simp

/-- Settles O24: CKCLR leaves 0, to which the commands behind it add the bytes of the CKADDs alone. -/
theorem standaloneChecksumOfTheAddedBytes : Obligations.StandaloneChecksumOfTheAddedBytes := by
  intro s d is h
  refine ⟨finalOf_ckclr_tacc d h s, ?_⟩
  rw [ckValue_toNat, finalOf_ckclr_tacc d h s]

/-- Settles O15: the word has CKCLR's op and data, and its effect is on `tacc` and the event presented alone. -/
theorem ckclrClearsTheAccumulator : Obligations.CkclrClearsTheAccumulator :=
  fun d s => ⟨decode_ofNat (.ckclr d) (by simp [Instr.op]), exec_eq_effect (.ckclr d) s, rfl⟩

/-- Settles O16: the word has CKADD's op and data, and its one addition is modulo 2^15. -/
theorem ckaddAddsModulo : Obligations.CkaddAddsModulo := by
  intro b s
  refine ⟨decode_ofNat (.ckadd b) (by simp [Instr.op]), ?_⟩
  rw [← accumulate_eq_ofNat]
  exact exec_eq_effect (.ckadd b) s

end Sys2Proof.Machine
end

section
/-! SUPPORT. Where a marker first occurs in a list and in its pieces, what the source's loop makes of a framed body, that
every byte keeps the block and the source's decoder in the relation of R77; and, with these, the statements about the
decoder (41_decoder.md). -/

namespace Sys2Proof.Machine

/-! Where a marker first occurs (R67) -/

theorem findFirst_cons_eq_none_iff {m : Marker} {a : Byte} {l : List Byte} :
    findFirst m (a :: l) = none ↔ ¬ (a = m.first ∧ l.head? = some m.second) ∧ findFirst m l = none := by
  rw [findFirst_cons]
  split
  case isTrue h => simp [h]
  case isFalse h => simp [h]

/-- A marker occurs in a concatenation in one part, in the other, or across the cut. -/
theorem findFirst_append_eq_none_iff {m : Marker} {l d : List Byte} :
    findFirst m (l ++ d) = none ↔
      findFirst m l = none ∧ findFirst m d = none ∧ ¬ (l.getLast? = some m.first ∧ d.head? = some m.second) := by
  induction l with
  | nil => simp
  | cons a l ih =>
    rw [List.cons_append, findFirst_cons_eq_none_iff, findFirst_cons_eq_none_iff, ih]
    cases l with
    | nil =>
      simp only [List.nil_append, findFirst_nil, List.getLast?_nil, List.getLast?_singleton, List.head?_nil,
        Option.some.injEq, reduceCtorEq]
      tauto
    | cons b l =>
      simp only [List.cons_append, List.head?_cons, List.getLast?_cons_cons]
      tauto

theorem findFirst_singleton (m : Marker) (b : Byte) : findFirst m [b] = none := by
  simp [findFirst_cons]

/-- One more byte brings a marker in only as its second byte, behind its first. -/
theorem findFirst_snoc_eq_none_iff {m : Marker} {l : List Byte} {b : Byte} :
    findFirst m (l ++ [b]) = none ↔ findFirst m l = none ∧ ¬ (l.getLast? = some m.first ∧ b = m.second) := by
  rw [findFirst_append_eq_none_iff]
  simp [findFirst_singleton]

/-- The two bytes of a marker differ, so a byte before it does not make it begin earlier. -/
theorem findFirst_append_marker {m : Marker} {l : List Byte} (hm : m.first ≠ m.second) (h : findFirst m l = none) :
    findFirst m (l ++ markerBytes m) = some l.length := by
  induction l with
  | nil => simp [markerBytes, findFirst_cons]
  | cons a l ih =>
    obtain ⟨ha, hl⟩ := findFirst_cons_eq_none_iff.1 h
    have hfar : ¬ (a = m.first ∧ (l ++ markerBytes m).head? = some m.second) := by
      cases l with
      | nil => simp [markerBytes, hm]
      | cons b l => simpa using ha
    rw [List.cons_append, findFirst_cons, if_neg hfar, ih hl, Option.map_some, List.length_cons]

/-- Before its first occurrence a marker does not occur. -/
theorem findFirst_take {m : Marker} {l : List Byte} {i : Nat} (h : findFirst m l = some i) :
    findFirst m (l.take i) = none := by
  cases hj : findFirst m (l.take i) with
  | none => rfl
  | some j =>
    have hij := findFirst_append hj (l.drop i)
    rw [List.take_append_drop, h, Option.some.injEq] at hij
    have := findFirst_lt hj
    rw [List.length_take] at this
    omega

theorem findFirst_eq_none_of_append_left {m : Marker} {l d : List Byte} (h : findFirst m (l ++ d) = none) :
    findFirst m l = none := (findFirst_append_eq_none_iff.1 h).1

theorem findFirst_eq_none_of_append_right {m : Marker} {l d : List Byte} (h : findFirst m (l ++ d) = none) :
    findFirst m d = none := (findFirst_append_eq_none_iff.1 h).2.1

theorem findFirst_take_of_none {m : Marker} {l : List Byte} (h : findFirst m l = none) (i : Nat) :
    findFirst m (l.take i) = none := by
  rw [← List.take_append_drop i l] at h
  exact findFirst_eq_none_of_append_left h

theorem findFirst_drop_of_none {m : Marker} {l : List Byte} (h : findFirst m l = none) (i : Nat) :
    findFirst m (l.drop i) = none := by
  rw [← List.take_append_drop i l] at h
  exact findFirst_eq_none_of_append_right h

/-- A list is cut by a marker in it. -/
theorem drop_of_findFirst {m : Marker} {l : List Byte} {i : Nat} (h : findFirst m l = some i) :
    l.drop i = markerBytes m ++ l.drop (i + 2) := by
  obtain ⟨hfirst, hsecond⟩ := findFirst_occurs h
  obtain ⟨hlt, hfirst⟩ := List.getElem?_eq_some_iff.1 hfirst
  obtain ⟨hlt', hsecond⟩ := List.getElem?_eq_some_iff.1 hsecond
  rw [List.drop_eq_getElem_cons hlt, List.drop_eq_getElem_cons hlt', hfirst, hsecond]
  rfl

theorem startMarker_first_ne_second : Config.startMarker.first ≠ Config.startMarker.second := by decide

theorem endMarker_first_ne_second : Config.endMarker.first ≠ Config.endMarker.second := by decide

/-- Settles O35: the four marker bytes differ, so no index is that of two of them. -/
theorem firstMarkersNeverCollide : Obligations.FirstMarkersNeverCollide := by
  intro l s e hs he
  obtain ⟨hs0, hs1⟩ := findFirst_occurs hs
  obtain ⟨he0, he1⟩ := findFirst_occurs he
  have hne (i j : Nat) (a b : Byte) (hi : l[i]? = some a) (hj : l[j]? = some b) (hab : a ≠ b) : i ≠ j := by
    rintro rfl
    exact hab (Option.some.inj (hi.symm.trans hj))
  have := hne _ _ _ _ hs0 he0 (by decide)
  have := hne _ _ _ _ hs0 he1 (by decide)
  have := hne _ _ _ _ hs1 he0 (by decide)
  omega

/-! The source's loop on markers (R68) -/

/-- Behind a start marker no END is completed but by bytes that hold one. -/
theorem noEnd_append_start_append {l d : List Byte} (hl : NoEnd l) (hd : NoEnd d) :
    NoEnd (l ++ (markerBytes Config.startMarker ++ d)) := by
  have hstart : NoEnd (markerBytes Config.startMarker ++ d) :=
    findFirst_append_eq_none_iff.2 ⟨by decide, hd, fun h => absurd h.1 (by decide)⟩
  refine findFirst_append_eq_none_iff.2 ⟨hl, hstart, fun h => ?_⟩
  simp [markerBytes, Config.startMarker, Config.endMarker] at h

/-- A start marker behind bytes without one: the loop keeps it, and of those bytes all or, where an END is among them,
none. -/
theorem refFeed_start {l : List Byte} (h : NoStart l) :
    ∃ l', NoStart l' ∧ NoEnd l' ∧
      refFeed l (markerBytes Config.startMarker) = (l' ++ markerBytes Config.startMarker, []) := by
  have hs := findFirst_append_marker startMarker_first_ne_second h
  change ∃ l', NoStart l' ∧ NoEnd l' ∧ refFeed [] (l ++ markerBytes Config.startMarker) = _
  cases he : findFirst Config.endMarker l with
  | none => exact ⟨l, h, he, refFeed_stop (.inr (noEnd_append_start_append (d := []) he rfl))⟩
  | some e =>
    refine ⟨[], rfl, rfl, ?_⟩
    have := findFirst_lt he
    rw [refFeed_resync hs (findFirst_append he _) (by omega), List.drop_left]
    rfl

/-- An end marker where a frame is open and holds none yet: the loop emits the frame's body and is left with nothing. -/
theorem refFeed_end {l : List Byte} {i : Nat}
    (hs : findFirst Config.startMarker (l ++ markerBytes Config.endMarker) = some i) (he : NoEnd l) :
    refFeed [] (l ++ markerBytes Config.endMarker) = ([], [l.drop (i + 2)]) := by
  have he' := findFirst_append_marker endMarker_first_ne_second he
  have hlen : (l ++ markerBytes Config.endMarker).length = l.length + 2 := by simp [markerBytes]
  have := findFirst_lt hs
  have := firstMarkersNeverCollide _ _ _ hs he'
  rw [refFeed_emit hs he' (by omega), slice, List.take_left, List.drop_eq_nil_of_le hlen.le]
  rfl

/-! One byte, in the block and in the source's loop (R77) -/

/-- The relation of R77, with what `Inv` adds to it: in BODY with nothing held no byte is confirmed (R28 I5). A decoder
in HUNT may have anything in its frame fields. -/
structure Tracks (s : State) (buf c : List Byte) : Prop where
  abstracts : Abstracts s buf c
  unheld : s.mode = .body → s.pv = false → c = []

theorem tracks_of_inv {s : State} {buf c : List Byte} (hi : Inv s) (h : Abstracts s buf c) : Tracks s buf c where
  abstracts := h
  unheld hm hp := by
    have hn : s.n.toNat = 0 := by simp [hi.unheld_count hp]
    exact List.eq_nil_of_length_eq_zero ((checkerHolds_n_eq_iff (h.body_checker hm) (by decide)).1 hn).symm

theorem tracks_hunt {s : State} {buf : List Byte} (hm : s.mode = .hunt) (hs : NoStart buf)
    (hsaw : s.saw = true ↔ buf.getLast? = some 0xA0) : Tracks s buf [] where
  abstracts :=
    { hunt_iff := ⟨fun _ => hs, fun _ => hm⟩
      saw_iff := fun _ => hsaw
      hunt_confirmed := fun _ => rfl
      body_buffer := fun h => by simp [hm] at h
      body_checker := fun h => by simp [hm] at h }
  unheld h := by simp [hm] at h

theorem tracks_body {s : State} {buf c : List Byte} {i : Nat} (hm : s.mode = .body)
    (hs : findFirst Config.startMarker buf = some i) (he : NoEnd buf) (hd : buf.drop (i + 2) = c ++ heldBytes s)
    (hc : CheckerHolds s c) (hu : s.pv = false → c = []) : Tracks s buf c where
  abstracts :=
    { hunt_iff := by simp [hm, NoStart, hs]
      saw_iff := fun h => by simp [hm] at h
      hunt_confirmed := fun h => by simp [hm] at h
      body_buffer := fun _ => ⟨i, hs, he, findFirst_take hs, findFirst_take_of_none he i, hd⟩
      body_checker := fun _ => hc }
  unheld _ := hu

/-- A decoder in HUNT, whatever its frame fields hold, is in the relation with its pending 0xA0 (R77 (b), log 4). -/
theorem tracks_huntTail {s : State} (hm : s.mode = .hunt) : Tracks s (huntTail s) [] := by
  cases h : s.saw with
  | false =>
    have htail : huntTail s = [] := by simp [huntTail, h]
    rw [htail]
    exact tracks_hunt hm rfl (by simp [h])
  | true =>
    have htail : huntTail s = [0xA0] := by simp [huntTail, h, Config.startMarker]
    rw [htail]
    exact tracks_hunt hm (findFirst_singleton _ _) (by simp [h])

theorem heldBytes_held {s : State} (h : s.pv = true) : heldBytes s = [s.pend] := by simp [heldBytes, h]

/-- In BODY the last byte of the source's buffer is the held one, or START's where none is held. -/
theorem Tracks.getLast?_body {s : State} {buf c : List Byte} (h : Tracks s buf c) (hm : s.mode = .body) :
    buf.getLast? = some (if s.pv then s.pend else 0xA2) := by
  obtain ⟨i, hs, -, -, -, hd⟩ := h.abstracts.body_buffer hm
  have hcut := drop_of_findFirst hs
  rw [← List.take_append_drop i buf, hcut, hd]
  cases hp : s.pv with
  | true => simp [heldBytes_held hp, markerBytes, List.getLast?_cons]
  | false => simp [heldBytes_unheld hp, h.unheld hm hp, markerBytes, Config.startMarker]

/-- The byte that completes an end marker in the block is the one that completes it in the source's buffer. -/
theorem Tracks.completesEnd_iff_getLast? {s : State} {buf c : List Byte} (h : Tracks s buf c) (hm : s.mode = .body)
    (b : Byte) :
    completesEnd s.pv s.pend b = true ↔
      buf.getLast? = some Config.endMarker.first ∧ b = Config.endMarker.second := by
  rw [h.getLast?_body hm, completesEnd_iff]
  cases s.pv <;> simp [Config.endMarker]

/-- A byte that completes a start marker opens a frame in both. -/
theorem Tracks.start {s : State} {buf c : List Byte} {b : Byte} (h : Tracks s buf c) (hm : s.mode = .hunt)
    (hb : completesStart s.saw b = true) :
    Tracks (present none (enterMode .body (clearFrame s))) (refFeed buf [b]).1 [] ∧ (refFeed buf [b]).2 = [] := by
  obtain ⟨hsaw, rfl⟩ := (completesStart_iff _ _).1 hb
  obtain ⟨l, rfl⟩ := List.getLast?_eq_some_iff.1 ((h.abstracts.saw_iff hm).1 hsaw)
  have hstart := h.abstracts.hunt_iff.1 hm
  obtain ⟨l', hs, he, hfeed⟩ := refFeed_start (findFirst_eq_none_of_append_left hstart)
  have hfeed' : refFeed (l ++ [Config.startMarker.first]) [0xA2] = (l' ++ markerBytes Config.startMarker, []) := by
    rw [← hfeed]
    simp [refFeed, markerBytes, Config.startMarker]
  rw [hfeed']
  have hfound := findFirst_append_marker startMarker_first_ne_second hs
  refine ⟨tracks_body rfl hfound (noEnd_append_start_append (d := []) he rfl) ?_
    (checkerHolds_nil (frameClear_enter _ _ s)) (fun _ => rfl), rfl⟩
  rw [List.drop_eq_nil_of_le (by simp [markerBytes]), heldBytes_unheld rfl]
  rfl

/-- Any other byte in HUNT is kept by the source, and is no event. -/
theorem Tracks.hunting {s : State} {buf c : List Byte} {b : Byte} (h : Tracks s buf c) (hm : s.mode = .hunt)
    (hb : completesStart s.saw b = false) :
    Tracks (present none { s with saw := beginsStart b }) (refFeed buf [b]).1 [] ∧ (refFeed buf [b]).2 = [] := by
  have hs : NoStart (buf ++ [b]) := by
    refine findFirst_snoc_eq_none_iff.2 ⟨h.abstracts.hunt_iff.1 hm, fun ⟨hlast, hsecond⟩ => ?_⟩
    rw [← Bool.not_eq_true, completesStart_iff] at hb
    exact hb ⟨(h.abstracts.saw_iff hm).2 hlast, hsecond⟩
  have hfeed : refFeed buf [b] = (buf ++ [b], []) := refFeed_stop (.inl hs)
  rw [hfeed]
  exact ⟨tracks_hunt hm hs (by simp [beginsStart_iff]), rfl⟩

/-- A byte that completes an end marker ends the frame in both, and its body is the confirmed bytes. -/
theorem Tracks.frameEnd {s : State} {buf c : List Byte} {b : Byte} (h : Tracks s buf c) (hm : s.mode = .body)
    (hb : completesEnd s.pv s.pend b = true) (e : Option Event) :
    Tracks (present e (enterMode .hunt (clearFrame s))) (refFeed buf [b]).1 [] ∧ (refFeed buf [b]).2 = [c] := by
  obtain ⟨i, hs, he, -, -, hd⟩ := h.abstracts.body_buffer hm
  obtain ⟨hlast, rfl⟩ := (h.completesEnd_iff_getLast? hm b).1 hb
  obtain ⟨hp, hpend, -⟩ := (completesEnd_iff _ _ _).1 hb
  obtain ⟨l, rfl⟩ := List.getLast?_eq_some_iff.1 hlast
  rw [heldBytes_held hp] at hd
  have hlen := congrArg List.length hd
  simp only [List.length_drop, List.length_append, List.length_singleton] at hlen
  rw [List.drop_append_of_le_length (by omega)] at hd
  have hfeed : refFeed (l ++ [Config.endMarker.first]) [Config.endMarker.second] = ([], [c]) := by
    have hbuf : l ++ [Config.endMarker.first] ++ [Config.endMarker.second] = l ++ markerBytes Config.endMarker := by
      simp [markerBytes]
    have hend := refFeed_end (hbuf ▸ findFirst_append hs _) (findFirst_eq_none_of_append_left he)
    rw [← hbuf, (List.append_inj' hd rfl).1] at hend
    exact hend
  rw [hfeed]
  exact ⟨tracks_hunt rfl rfl (by simp), rfl⟩

/-- A byte in BODY that completes no end marker is kept by the source, at the end of the frame in progress. -/
theorem Tracks.body_goesOn {s t : State} {buf c c' : List Byte} {b : Byte} (h : Tracks s buf c) (hm : s.mode = .body)
    (hb : completesEnd s.pv s.pend b = false) (ht : t.mode = .body) (hp : t.pv = true)
    (hbytes : c ++ heldBytes s ++ [b] = c' ++ heldBytes t) (hc : CheckerHolds t c') :
    Tracks t (refFeed buf [b]).1 c' ∧ (refFeed buf [b]).2 = [] := by
  obtain ⟨i, hs, he, -, -, hd⟩ := h.abstracts.body_buffer hm
  have hend : NoEnd (buf ++ [b]) := by
    refine findFirst_snoc_eq_none_iff.2 ⟨he, ?_⟩
    rw [← h.completesEnd_iff_getLast? hm b, hb]
    exact Bool.false_ne_true
  have hfeed : refFeed buf [b] = (buf ++ [b], []) := refFeed_stop (.inr hend)
  rw [hfeed]
  refine ⟨tracks_body ht (findFirst_append hs _) hend ?_ hc (by simp [hp]), rfl⟩
  have := findFirst_lt hs
  rw [List.drop_append_of_le_length (by omega), hd, hbytes]

/-- Every byte keeps the relation, and ends in both the same body (R77, R78). -/
theorem Tracks.rxb {s : State} {buf c : List Byte} (h : Tracks s buf c) (b : Byte) :
    Tracks (effect (.rxb b) s) (refFeed buf [b]).1 (confirmedAfter c (effect (.rxb b) s).out) ∧
    (refFeed buf [b]).2 = bodiesEnded c (effect (.rxb b) s).out := by
  obtain hm | hm := mode_hunt_or_body s
  · obtain rfl := h.abstracts.hunt_confirmed hm
    rw [effect_rxb_hunt hm]
    obtain ⟨hb, heq⟩ | ⟨hb, heq⟩ := rxbHunt_cases b s <;> rw [heq]
    · exact h.start hm hb
    · exact h.hunting hm hb
  · rw [effect_rxb_body hm]
    obtain ⟨hb, heq⟩ | ⟨hb, hp, heq⟩ | ⟨hp, heq⟩ := rxbBody_cases b s <;> rw [heq]
    · exact h.frameEnd hm hb _
    · obtain ⟨n, lh, ll, rid, t0, t1, racc⟩ := checkerHolds_confirm s.pend (h.abstracts.body_checker hm)
      exact h.body_goesOn hm hb hm hp (by simp [heldBytes, hp, confirmedAfter]) ⟨n, lh, ll, rid, t0, t1, racc⟩
    · obtain ⟨n, lh, ll, rid, t0, t1, racc⟩ := h.abstracts.body_checker hm
      exact h.body_goesOn hm (by simp [completesEnd, hp]) hm rfl (by simp [heldBytes, hp, confirmedAfter])
        ⟨n, lh, ll, rid, t0, t1, racc⟩

/-- Settles O37: `Inv` gives what `Tracks` adds to the relation, and every byte keeps `Tracks`. -/
theorem rxbKeepsTheAbstraction : Obligations.RxbKeepsTheAbstraction := by
  intro s buf c b hi h
  obtain ⟨ht, hbodies⟩ := (tracks_of_inv hi h).rxb b
  exact ⟨_, exec_eq_effect _ s, ht.abstracts, hbodies⟩

/-! One command at a time (R70 to R72) -/

/-- Settles O12: the two cases of the start-marker detector, field by field. -/
theorem rxbInHunt : Obligations.RxbInHunt := by
  intro b s hm
  rw [exec_eq_effect, effect_rxb_hunt hm]
  simp only [← completesStart_iff]
  obtain ⟨hb, heq⟩ | ⟨hb, heq⟩ := rxbHunt_cases b s <;> rw [heq]
  · rw [if_pos hb]
    rfl
  · rw [if_neg (by simp [hb])]
    rfl

/-- Settles O13: the three cases of the end-marker detector, field by field. -/
theorem rxbInBody : Obligations.RxbInBody := by
  intro b s hm
  rw [exec_eq_effect, effect_rxb_body hm]
  simp only [← completesEnd_iff]
  obtain ⟨hb, heq⟩ | ⟨hb, hp, heq⟩ | ⟨hp, heq⟩ := rxbBody_cases b s <;> rw [heq]
  · rw [if_pos hb]
    rfl
  · rw [if_neg (by simp [hb]), if_pos hp]
    simp only [← accumulate_eq_ofNat, BitVec.toNat_eq]
    rfl
  · rw [if_neg (by simp [completesEnd, hp]), if_neg (by simp [hp])]
    rfl

/-- Settles O14: the word has FLUSH's op and data, and the event it presents is ABORT in BODY alone. -/
theorem flushAbandonsTheFrame : Obligations.FlushAbandonsTheFrame := by
  intro d s
  refine ⟨decode_ofNat (.flush d) (by simp [Instr.op]), ?_⟩
  have hevent : flushEvent s = if s.mode = .body then some (.abort s.n) else none := by
    cases hm : s.mode <;> simp [flushEvent, hm]
  rw [exec_eq_effect, ← hevent]
  rfl

/-- A fresh decoder and a block just reset differ in `tacc`, the event presented and the inputs to come alone (R116). -/
theorem sameReceiver_reset {s : State} (h : FreshDecoder s) : SameReceiver s State.reset where
  mode := h.mode
  saw := h.saw
  pv := h.frame.pv
  pend := h.frame.pend
  n := h.frame.n
  lh := h.frame.lh
  ll := h.frame.ll
  rid := h.frame.rid
  t1 := h.frame.t1
  t0 := h.frame.t0
  racc := h.frame.racc

/-- From a fresh decoder every run is, for the receive path, the run of a block just reset. -/
theorem run_of_freshDecoder (is : List Instr) {s : State} (h : FreshDecoder s) :
    eventsOf (commandEdges is) s = eventsOf (commandEdges is) State.reset ∧
    SameReceiver (finalOf (commandEdges is) s) (finalOf (commandEdges is) State.reset) := by
  have hrefl : SameReceiver State.reset State.reset := sameReceiver_withInputs State.reset []
  obtain ⟨hev, hfin⟩ := run_of_sameReceiver is (sameReceiver_reset h)
  obtain ⟨hev', hfin'⟩ := run_of_sameReceiver is hrefl
  exact ⟨hev.trans hev'.symm, sameReceiver_trans hfin (sameReceiver_symm hfin')⟩

/-- Settles O44: FLUSH leaves a fresh decoder, which runs as a block just reset. -/
theorem flushStartsAFreshStream : Obligations.FlushStartsAFreshStream := by
  intro s d is
  have hf : FreshDecoder (effect (.flush d) s) := freshDecoder_leave _ s
  obtain ⟨hev, hfin⟩ := run_of_freshDecoder is hf
  exact ⟨_, exec_eq_effect _ s, hf, effect_tacc rfl s, hev, hfin⟩

theorem outputs_succ_of_step {s t : State} (k : Nat) (h : step s = .next t) :
    outputs (k + 1) s = t.out :: outputs k t := by
  simp only [outputs, h]

/-- Settles O11: with nothing queued the next edge is idle, and leaves nothing queued. -/
theorem waitingBlockKeepsItsState : Obligations.WaitingBlockKeepsItsState := by
  intro k s h
  have hstep : step s = .next { s with out := none } := idleEdgeChangesNothing.2 s h
  induction k generalizing s with
  | zero => exact ⟨run_succ_of_step 0 hstep, rfl⟩
  | succ k ih =>
    obtain ⟨hrun, hout⟩ := ih { s with out := none } h (idleEdgeChangesNothing.2 _ h)
    rw [run_succ_of_step _ hstep, outputs_succ_of_step _ hstep, hrun, hout]
    exact ⟨rfl, rfl⟩

/-! A stream of bytes (R77, R78) -/

theorem feed_append (xs ys : List Byte) : feed (xs ++ ys) = feed xs ++ feed ys := by
  simp [feed, commandEdges]

@[simp] theorem feed_nil : feed [] = [] := rfl

theorem feed_cons (b : Byte) (xs : List Byte) : feed (b :: xs) = PortIn.command (encode (.rxb b)) :: feed xs := rfl

theorem finalOf_feed_cons (b : Byte) (xs : List Byte) (s : State) :
    finalOf (feed (b :: xs)) s = finalOf (feed xs) (effect (.rxb b) s) := by
  rw [feed_cons, finalOf_cons, edgeEffect_command_encode]

theorem eventsOf_feed_cons (b : Byte) (xs : List Byte) (s : State) :
    eventsOf (feed (b :: xs)) s = (effect (.rxb b) s).out.toList ++ eventsOf (feed xs) (effect (.rxb b) s) := by
  rw [feed_cons, eventsOf_cons, edgeEffect_command_encode]

/-- The last byte of a stream, on the state the bytes before it left. -/
theorem finalOf_feed_snoc (xs : List Byte) (b : Byte) (s : State) :
    finalOf (feed (xs ++ [b])) s = (effect (.rxb b) (finalOf (feed xs) s)).withInputs [] := by
  rw [feed_append, finalOf_append, finalOf_feed_cons, feed_nil, finalOf_nil]

theorem outputsOf_feed_snoc (xs : List Byte) (b : Byte) (s : State) :
    outputsOf (feed (xs ++ [b])) s = outputsOf (feed xs) s ++ [(effect (.rxb b) (finalOf (feed xs) s)).out] := by
  rw [feed_append, outputsOf_append, outputsOf_feed_cons, feed_nil, outputsOf_nil]

theorem eventsOf_feed_snoc (xs : List Byte) (b : Byte) (s : State) :
    eventsOf (feed (xs ++ [b])) s =
      eventsOf (feed xs) s ++ (effect (.rxb b) (finalOf (feed xs) s)).out.toList := by
  rw [feed_append, eventsOf_append, eventsOf_feed_cons, feed_nil, eventsOf_nil, List.append_nil]

theorem finalOf_feed_tacc (xs : List Byte) (s : State) : (finalOf (feed xs) s).tacc = s.tacc := by
  have h := finalOf_receive_tacc (xs.map Instr.rxb) s
  rwa [List.filter_eq_self.2 (by simp [isReceive])] at h

theorem abstracts_withInputs {s : State} {buf c : List Byte} (es : List PortIn) (h : Abstracts s buf c) :
    Abstracts (s.withInputs es) buf c where
  hunt_iff := h.hunt_iff
  saw_iff := h.saw_iff
  hunt_confirmed := h.hunt_confirmed
  body_buffer := h.body_buffer
  body_checker hm := checkerHolds_of_sameReceiver (sameReceiver_withInputs s es) (h.body_checker hm)

/-- The source's loop has nothing to do on a buffer of the relation. -/
theorem Tracks.refFeed_nil {s : State} {buf c : List Byte} (h : Tracks s buf c) : refFeed buf [] = (buf, []) := by
  have hbuf : refFeed buf [] = refFeed [] buf := by simp [refFeed]
  rw [hbuf]
  obtain hm | hm := mode_hunt_or_body s
  · exact refFeed_stop (.inl (h.abstracts.hunt_iff.1 hm))
  · obtain ⟨-, -, he, -⟩ := h.abstracts.body_buffer hm
    exact refFeed_stop (.inr he)

theorem refFeed_cons (buf : List Byte) (b : Byte) (xs : List Byte) :
    refFeed buf (b :: xs) =
      ((refFeed (refFeed buf [b]).1 xs).1, (refFeed buf [b]).2 ++ (refFeed (refFeed buf [b]).1 xs).2) :=
  refFeed_append buf [b] xs

/-- The relation of R77 after a stream. -/
theorem Tracks.finalOf_feed {s : State} {buf c : List Byte} (h : Tracks s buf c) (xs : List Byte) :
    Tracks (finalOf (feed xs) s) (refFeed buf xs).1 ((outputsOf (feed xs) s).foldl confirmedAfter c) := by
  induction xs generalizing s buf c with
  | nil =>
    rw [h.refFeed_nil]
    exact ⟨abstracts_withInputs [] h.abstracts, h.unheld⟩
  | cons b xs ih =>
    rw [finalOf_feed_cons, outputsOf_feed_cons, refFeed_cons, List.foldl_cons]
    exact ih (h.rxb b).1

/-- The bodies in a list of events, the first event put first. -/
theorem bodiesFrom_toList_append (c : List Byte) (o : Option Event) (es : List Event) :
    bodiesFrom c (o.toList ++ es) = bodiesEnded c o ++ bodiesFrom (confirmedAfter c o) es := by
  cases o with
  | none => rfl
  | some e => cases e <;> rfl

/-- The bodies the events of a stream carry are those the source's loop emits (R78). -/
theorem Tracks.bodiesFrom_feed {s : State} {buf c : List Byte} (h : Tracks s buf c) (xs : List Byte) :
    bodiesFrom c (eventsOf (feed xs) s) = (refFeed buf xs).2 := by
  induction xs generalizing s buf c with
  | nil =>
    rw [h.refFeed_nil]
    rfl
  | cons b xs ih =>
    obtain ⟨ht, hbodies⟩ := h.rxb b
    rw [eventsOf_feed_cons, bodiesFrom_toList_append, ih ht, refFeed_cons buf b xs, hbodies]

/-- The record of an END is the verdict on the body it ends (R91). -/
theorem Tracks.records_rxb {s : State} {buf c : List Byte} (h : Tracks s buf c) (b : Byte) :
    recordsOf (effect (.rxb b) s).out.toList = (bodiesEnded c (effect (.rxb b) s).out).map expectedRecord := by
  obtain hm | hm := mode_hunt_or_body s
  · rw [effect_rxb_hunt hm]
    obtain ⟨-, heq⟩ | ⟨-, heq⟩ := rxbHunt_cases b s <;> rw [heq] <;> rfl
  · rw [effect_rxb_body hm]
    obtain ⟨-, heq⟩ | ⟨-, -, heq⟩ | ⟨-, heq⟩ := rxbBody_cases b s <;> rw [heq]
    · rw [record_eq_expectedRecord (h.abstracts.body_checker hm)]
      rfl
    · rfl
    · rfl

theorem recordsOf_append (es fs : List Event) : recordsOf (es ++ fs) = recordsOf es ++ recordsOf fs :=
  List.filterMap_append

theorem Tracks.recordsOf_feed {s : State} {buf c : List Byte} (h : Tracks s buf c) (xs : List Byte) :
    recordsOf (eventsOf (feed xs) s) = (refFeed buf xs).2.map expectedRecord := by
  induction xs generalizing s buf c with
  | nil =>
    rw [h.refFeed_nil]
    rfl
  | cons b xs ih =>
    obtain ⟨ht, hbodies⟩ := h.rxb b
    rw [eventsOf_feed_cons, recordsOf_append, h.records_rxb, ih ht, refFeed_cons buf b xs, hbodies,
      List.map_append]

theorem tracks_of_freshDecoder {s : State} (h : FreshDecoder s) : Tracks s [] [] :=
  tracks_hunt h.mode rfl (by simp [h.saw])

/-- A step ends a body exactly when it presents END. -/
theorem bodiesEnded_ne_nil_iff (c : List Byte) (o : Option Event) :
    bodiesEnded c o ≠ [] ↔ ∃ r, o = some (.frameEnd r) := by
  cases o with
  | none => simp [bodiesEnded]
  | some e => cases e <;> simp [bodiesEnded]

/-- Settles O38: the relation holds with a fresh decoder and the empty buffer, every byte keeps it, and chunks are as
good as their concatenation. -/
theorem abstractionHoldsOnEveryStream : Obligations.AbstractionHoldsOnEveryStream := by
  intro s cs h
  rw [refFeedChunks_eq_refFeed cs rfl]
  exact ((tracks_of_freshDecoder h).finalOf_feed cs.flatten).abstracts

/-- Settles O39: along a stream the relation gives the bodies and the records, and on its last byte the END. -/
theorem blockEmitsTheReferenceBodies : Obligations.BlockEmitsTheReferenceBodies := by
  intro s xs h
  have ht := tracks_of_freshDecoder h
  refine ⟨ht.bodiesFrom_feed xs, ht.recordsOf_feed xs, fun b => ?_⟩
  obtain ⟨-, hbodies⟩ := (ht.finalOf_feed xs).rxb b
  rw [outputsOf_feed_snoc, List.getLast?_concat, hbodies, bodiesEnded_ne_nil_iff]
  simp

theorem expectedRecord_ok (b : List Byte) : (expectedRecord b).ok = (validate b).ok := rfl

/-- A consumer that takes events whose records are the verdicts on their bodies delivers the bodies that pass. -/
theorem delivered_foldl_take {es : List Event} {k : Consumer}
    (h : recordsOf es = (bodiesFrom k.pending es).map expectedRecord) :
    (es.foldl Consumer.take k).delivered.map Delivery.body =
      k.delivered.map Delivery.body ++ (bodiesFrom k.pending es).filter (fun b => (validate b).ok) := by
  induction es generalizing k with
  | nil => simp [bodiesFrom]
  | cons e es ih =>
    rw [List.foldl_cons]
    cases e with
    | byte b => exact ih (k := k.take (.byte b)) h
    | abort n => exact ih (k := k.take (.abort n)) h
    | frameEnd r =>
      obtain ⟨rfl, hes⟩ : r = expectedRecord k.pending ∧ recordsOf es = (bodiesFrom [] es).map expectedRecord :=
        List.cons_eq_cons.1 h
      rw [ih (k := k.take (.frameEnd (expectedRecord k.pending))) hes]
      cases hok : (validate k.pending).ok <;> simp [Consumer.take, bodiesFrom, expectedRecord_ok, hok]

/-- Settles O49: the events' records are the verdicts on the source's bodies, and the consumer delivers what passes. -/
theorem consumerDeliversTheValidReferenceBodies : Obligations.ConsumerDeliversTheValidReferenceBodies := by
  intro s xs h
  obtain ⟨hbodies, hrecords, -⟩ := blockEmitsTheReferenceBodies s xs h
  rw [feed, consume_commandEdges_snd, ← feed, ← hbodies]
  exact delivered_foldl_take (k := Consumer.fresh) (hrecords.trans (by rw [← hbodies]; rfl))

/-- In HUNT no byte is an event (R70). -/
theorem effect_rxb_hunt_out {s : State} (hm : s.mode = .hunt) (b : Byte) : (effect (.rxb b) s).out = none := by
  rw [effect_rxb_hunt hm]
  obtain ⟨-, heq⟩ | ⟨-, heq⟩ := rxbHunt_cases b s <;> rw [heq, present_out]

/-- Bytes in which no start marker is completed leave the block in HUNT. -/
theorem tracks_of_noStart {s : State} {xs : List Byte} (hm : s.mode = .hunt) (hs : NoStart (huntTail s ++ xs)) :
    ∃ c, (finalOf (feed xs) s).mode = .hunt ∧ Tracks (finalOf (feed xs) s) (huntTail s ++ xs) c := by
  have ht := (tracks_huntTail hm).finalOf_feed xs
  have hfeed : refFeed (huntTail s) xs = (huntTail s ++ xs, []) := refFeed_stop (.inl hs)
  rw [hfeed] at ht
  exact ⟨_, ht.abstracts.hunt_iff.2 hs, ht⟩

theorem eventsOf_feed_of_noStart {s : State} (hm : s.mode = .hunt) (xs : List Byte)
    (hs : NoStart (huntTail s ++ xs)) : eventsOf (feed xs) s = [] := by
  induction xs using List.reverseRecOn with
  | nil => rfl
  | append_singleton xs b ih =>
    rw [← List.append_assoc] at hs
    have hs' := findFirst_eq_none_of_append_left hs
    obtain ⟨-, hfinal, -⟩ := tracks_of_noStart hm hs'
    rw [eventsOf_feed_snoc, ih hs', effect_rxb_hunt_out hfinal]
    rfl

/-- Settles O32: no byte of the stream completes a start marker, so the block stays in HUNT, where no byte is an event. -/
theorem huntDropsBytesWithoutAStart : Obligations.HuntDropsBytesWithoutAStart := by
  intro s xs hm hs
  obtain ⟨c, hfinal, ht⟩ := tracks_of_noStart hm hs
  exact ⟨eventsOf_feed_of_noStart hm xs hs, hfinal, ht.abstracts.saw_iff hfinal⟩

/-! Framed bodies (R79 to R81) -/

/-- END is the last thing a frame does: the block is left a fresh decoder. -/
theorem freshDecoder_of_frameEnd {s : State} {b : Byte} {r : FrameRecord}
    (h : (effect (.rxb b) s).out = some (.frameEnd r)) : FreshDecoder (effect (.rxb b) s) := by
  obtain hm | hm := mode_hunt_or_body s
  · simp [effect_rxb_hunt_out hm] at h
  · rw [effect_rxb_body hm] at h ⊢
    obtain ⟨-, heq⟩ | ⟨-, -, heq⟩ | ⟨-, heq⟩ := rxbBody_cases b s <;> rw [heq] at h ⊢
    · exact freshDecoder_leave _ s
    · simp at h
    · simp at h

theorem freshDecoder_withInputs {s : State} (es : List PortIn) (h : FreshDecoder s) : FreshDecoder (s.withInputs es) :=
  ⟨h.mode, h.saw, frameClear_of_sameReceiver (sameReceiver_withInputs s es) h.frame⟩

theorem freshDecoder_of_getLast?_frameEnd {s : State} {xs : List Byte} {r : FrameRecord}
    (h : (outputsOf (feed xs) s).getLast? = some (some (.frameEnd r))) : FreshDecoder (finalOf (feed xs) s) := by
  obtain rfl | ⟨ys, b, rfl⟩ := xs.eq_nil_or_concat
  · simp at h
  · rw [List.concat_eq_append, outputsOf_feed_snoc, List.getLast?_concat, Option.some.injEq] at h
    rw [List.concat_eq_append, finalOf_feed_snoc]
    exact freshDecoder_withInputs [] (freshDecoder_of_frameEnd h)

theorem freshDecoder_feed_framed {s : State} {c : List Byte} (hm : s.mode = .hunt) (hc : NoEnd c) :
    FreshDecoder (finalOf (feed (framed c)) s) :=
  freshDecoder_of_getLast?_frameEnd (r := expectedRecord c) (by rw [outputsOf_feed_framed hm hc, List.getLast?_concat])

/-- Settles O33: the outputs are those of a framed body without END, whose last edge presents END. -/
theorem framedBodyTimeline : Obligations.FramedBodyTimeline :=
  fun s _ hm hc => ⟨outputsOf_feed_framed hm hc, freshDecoder_feed_framed hm hc, finalOf_feed_tacc _ s⟩

/-! The verdict's bits (R85) -/

theorem validate_runt_iff (b : List Byte) : (validate b).runt = true ↔ b.length < 4 := by
  simp only [validate]
  split <;> simp_all

theorem validate_lenErr_iff (b : List Byte) :
    (validate b).lenErr = true ↔ b.length < 4 ∨ pairValue (byteAt b 0) (byteAt b 1) ≠ b.length - 4 := by
  simp only [validate]
  split <;> simp_all

theorem validate_ok_of_lenErr {b : List Byte} (h : (validate b).lenErr = true) : (validate b).ok = false := by
  rw [validate_lenErr_iff] at h
  simp only [validate]
  split
  case isTrue => rfl
  case isFalse hn => simp [h.resolve_left hn]

/-! END inside an encoded body (R79) -/

theorem ofNat_byte_eq_iff (v : Nat) (b : Byte) : BitVec.ofNat 8 v = b ↔ v % 256 = b.toNat := by
  rw [BitVec.toNat_eq, BitVec.toNat_ofNat]

/-- The first byte of a field that holds a small number is none of the large bytes, those of the markers among them. -/
theorem fieldByte_high_ne {v : Nat} {b : Byte} (h : v / 256 < b.toNat) : BitVec.ofNat 8 (v / 256) ≠ b := by
  have := b.isLt
  rw [ne_eq, ofNat_byte_eq_iff]
  omega

/-- No checksum reaches a byte of END: its first byte is below 0x80. -/
theorem checksum_high_ne (p : List Byte) {b : Byte} (h : 128 ≤ b.toNat) :
    BitVec.ofNat 8 ((checksum p).toNat / 256) ≠ b := by
  have := (checksum p).isLt
  exact fieldByte_high_ne (by omega)

/-- A checksum behind a list completes no END with it and holds none. -/
theorem noEnd_append_checksum_iff (l p : List Byte) : NoEnd (l ++ fieldBytes (checksum p).toNat) ↔ NoEnd l := by
  have hfirst : BitVec.ofNat 8 ((checksum p).toNat / 256) ≠ Config.endMarker.first := checksum_high_ne p (by decide)
  have hsecond : BitVec.ofNat 8 ((checksum p).toNat / 256) ≠ Config.endMarker.second := checksum_high_ne p (by decide)
  have hfield : NoEnd (fieldBytes (checksum p).toNat) :=
    findFirst_cons_eq_none_iff.2 ⟨fun h => hfirst h.1, findFirst_singleton _ _⟩
  have hcut : (fieldBytes (checksum p).toNat).head? ≠ some Config.endMarker.second :=
    fun h => hsecond (Option.some.inj h)
  rw [NoEnd, findFirst_append_eq_none_iff]
  exact ⟨fun h => h.1, fun h => ⟨h, hfield, fun hc => hcut hc.2⟩⟩

/-- The payload's first byte, or the checksum's where there is no payload, completes an END only as the payload's. -/
theorem head?_append_checksum_iff (p : List Byte) :
    (p ++ fieldBytes (checksum p).toNat).head? = some Config.endMarker.second ↔ p.head? = some 0xB3 := by
  cases p with
  | nil => decide
  | cons a p => rfl

/-- Of the two fields around a payload only the length's low byte can take part in an END. -/
theorem noEnd_encodedBody_iff {p : List Byte} (hp : p.length < 1024) :
    NoEnd (encodedBody p) ↔ ¬ (p.length % 256 = 176 ∧ p.head? = some 0xB3) ∧ NoEnd p := by
  have hbytes : encodedBody p = BitVec.ofNat 8 (p.length / 256) :: BitVec.ofNat 8 p.length ::
      (p ++ fieldBytes (checksum p).toNat) := rfl
  have hhigh : BitVec.ofNat 8 (p.length / 256) ≠ Config.endMarker.first :=
    fieldByte_high_ne (show p.length / 256 < 176 by omega)
  have hlow : BitVec.ofNat 8 p.length = Config.endMarker.first ↔ p.length % 256 = 176 := ofNat_byte_eq_iff _ _
  have htail := noEnd_append_checksum_iff p p
  rw [hbytes, NoEnd, findFirst_cons_eq_none_iff, findFirst_cons_eq_none_iff, head?_append_checksum_iff, hlow]
  exact ⟨fun ⟨_, hcut, h⟩ => ⟨hcut, htail.1 h⟩, fun ⟨hcut, h⟩ => ⟨fun hh => hhigh hh.1, hcut, htail.2 h⟩⟩

/-- Settles O40: below 1024 the lengths whose low byte is 0xB0 are the four named. -/
theorem encodedBodyHoldsEndExactlyWhen : Obligations.EncodedBodyHoldsEndExactlyWhen := by
  intro p hp
  have hlengths : p.length % 256 = 176 ↔
      p.length = 176 ∨ p.length = 432 ∨ p.length = 688 ∨ p.length = 944 := by omega
  rw [noEnd_encodedBody_iff hp, hlengths]
  tauto

/-- A frame with an END in its body is the frame of the bytes before it, and then the rest. -/
theorem framed_cut {c : List Byte} {j : Nat} (h : findFirst Config.endMarker c = some j) :
    framed c = framed (c.take j) ++ (c.drop (j + 2) ++ markerBytes Config.endMarker) := by
  have hc : c.take j ++ (markerBytes Config.endMarker ++ c.drop (j + 2)) = c := by
    rw [← drop_of_findFirst h, List.take_append_drop]
  conv_lhs => rw [← hc]
  simp [framed]

/-- The first END in a body ends the frame, and what comes after it is received as by a block just reset (R79). -/
theorem eventsOf_feed_framed_cut {s : State} {c : List Byte} {j : Nat} (hm : s.mode = .hunt)
    (hj : findFirst Config.endMarker c = some j) :
    eventsOf (feed (framed c)) s =
      (c.take j).map Event.byte ++ [.frameEnd (expectedRecord (c.take j))] ++
        eventsOf (feed (c.drop (j + 2) ++ markerBytes Config.endMarker)) State.reset := by
  have hend := findFirst_take hj
  obtain ⟨hrest, -⟩ := run_of_freshDecoder ((c.drop (j + 2) ++ markerBytes Config.endMarker).map Instr.rxb)
    (freshDecoder_feed_framed hm hend)
  rw [framed_cut hj, feed_append, eventsOf_append, eventsOf_feed_framed hm hend]
  exact congrArg _ hrest

theorem byteAt_take {l : List Byte} {i j : Nat} (h : i < j) : byteAt (l.take j) i = byteAt l i := by
  simp [byteAt, List.getElem?_take_of_lt h]

/-- A body cut short declares a longer payload than it has (R79). -/
theorem lenErr_take_encodedBody {p : List Byte} {j : Nat} (hp : p.length < 1024) (hj : j < (encodedBody p).length) :
    (validate ((encodedBody p).take j)).lenErr = true := by
  rw [validate_lenErr_iff, List.length_take_of_le hj.le]
  by_cases h : j < 4
  · exact .inl h
  · have hdecl : pairValue (byteAt (encodedBody p) 0) (byteAt (encodedBody p) 1) = p.length :=
      pairValue_fieldBytes (by omega)
    rw [encodedBody_length] at hj
    rw [byteAt_take (by omega), byteAt_take (by omega), hdecl]
    omega

/-- Settles O41: the frame is cut at its first END, and the bytes before it fail the length check. -/
theorem endInsideAFrameCutsIt : Obligations.EndInsideAFrameCutsIt := by
  intro s p j hm hp hj
  have hlt := (Nat.lt_succ_self j).trans (findFirst_lt hj)
  have hlen := lenErr_take_encodedBody hp hlt
  refine ⟨_, eventsOf_feed_framed_cut hm hj, hlen, validate_ok_of_lenErr hlen, ?_⟩
  have hrunt := validate_runt_iff ((encodedBody p).take j)
  rwa [List.length_take_of_le hlt.le] at hrunt

/-! The round trip (R81) -/

/-- The record of an encoded body passes, and holds the payload's length, checksum and first byte. -/
theorem expectedRecord_encodedBody {p : List Byte} (hp : p.length < 1024) :
    expectedRecord (encodedBody p) =
      { bodyLen := BitVec.ofNat 17 (p.length + 4), actLen := BitVec.ofNat 17 p.length,
        declLen := BitVec.ofNat 16 p.length, declChk := zext16 (checksum p), compChk := zext16 (checksum p),
        id := byteAt p 0, idValid := decide (1 ≤ p.length), runt := false, lenErr := false, chkErr := false,
        ok := true } := by
  have hbody : min (p.length + 4) Config.nmax = p.length + 4 := min_eq_left (by rw [Config.nmax]; omega)
  have hact : min p.length (Config.nmax - 4) = p.length := min_eq_left (by rw [Config.nmax]; omega)
  rw [expectedRecord, validate_encodedBody (by omega), encodedBody_length]
  simp only [hbody, hact]

theorem firstRecord_bytes (l : List Byte) (r : FrameRecord) (es : List Event) :
    firstRecord (l.map Event.byte ++ [.frameEnd r] ++ es) = some r := by
  induction l with
  | nil => rfl
  | cons b l ih => exact ih

/-- Settles O43: without END in the body the record is that of the encoded body; with one the first END is that of the
frame it cuts off, which fails. -/
theorem roundTripExactlyWhen : Obligations.RoundTripExactlyWhen := by
  intro s p hm hp
  have hfails (hend : ¬ NoEnd (encodedBody p)) :
      ∃ r, firstRecord (eventsOf (feed (framed (encodedBody p))) s) = some r ∧ r.ok = false := by
    obtain ⟨j, hj⟩ := Option.ne_none_iff_exists'.1 hend
    obtain ⟨r, hev, -, hok, -⟩ := endInsideAFrameCutsIt s p j hm hp hj
    exact ⟨r, by rw [hev, firstRecord_bytes], hok⟩
  refine ⟨⟨fun ⟨r, hev, hok, _⟩ => ?_, fun hend => ?_⟩, hfails⟩
  · by_contra hend
    obtain ⟨r', hfirst, hok'⟩ := hfails hend
    have hr := firstRecord_bytes (encodedBody p) r []
    rw [List.append_nil, ← hev, hfirst, Option.some.injEq] at hr
    rw [hr, hok] at hok'
    exact Bool.noConfusion hok'
  · refine ⟨_, eventsOf_feed_framed hm hend, ?_⟩
    rw [expectedRecord_encodedBody hp]
    exact ⟨rfl, Nat.mod_eq_of_lt (by omega), Nat.mod_eq_of_lt (by omega), zext16_toNat _, zext16_toNat _, rfl,
      fun _ => rfl⟩

/-! Resynchronization (R80) -/

/-- The rest of a frame that is open in the buffer: the loop emits its body and is left with nothing. -/
theorem refFeed_frame_rest {buf d : List Byte} {i : Nat} (hs : findFirst Config.startMarker buf = some i)
    (he : NoEnd (buf ++ d)) :
    refFeed buf (d ++ markerBytes Config.endMarker) = ([], [(buf ++ d).drop (i + 2)]) := by
  have hbuf : buf ++ d ++ markerBytes Config.endMarker = buf ++ (d ++ markerBytes Config.endMarker) :=
    List.append_assoc _ _ _
  have hend := refFeed_end (l := buf ++ d) (i := i) (by rw [hbuf]; exact findFirst_append hs _) he
  rw [hbuf] at hend
  exact hend

theorem framed_eq (f : List Byte) :
    framed f = markerBytes Config.startMarker ++ (f ++ markerBytes Config.endMarker) := List.append_assoc _ _ _

/-- A frame fed where none is open is emitted. -/
theorem refFeed_framed_hunt {buf f : List Byte} (hs : NoStart buf) (hf : NoEnd f) :
    refFeed buf (framed f) = ([], [f]) := by
  obtain ⟨l, hl, he, hstart⟩ := refFeed_start hs
  have hfound := findFirst_append_marker startMarker_first_ne_second hl
  have hopen : NoEnd (l ++ markerBytes Config.startMarker ++ f) := by
    rw [List.append_assoc]
    exact noEnd_append_start_append he hf
  have hbody : (l ++ markerBytes Config.startMarker ++ f).drop (l.length + 2) = f :=
    List.drop_left' (by simp [markerBytes])
  rw [framed_eq, refFeed_append, hstart, refFeed_frame_rest hfound hopen, hbody]
  rfl

/-- A frame fed where one is open is no frame: its start marker and its body are bytes of the open one. -/
theorem refFeed_framed_body {buf f : List Byte} {i : Nat} (hs : findFirst Config.startMarker buf = some i)
    (he : NoEnd buf) (hf : NoEnd f) :
    refFeed buf (framed f) = ([], [buf.drop (i + 2) ++ (markerBytes Config.startMarker ++ f)]) := by
  have hlt := findFirst_lt hs
  rw [framed, refFeed_frame_rest hs (noEnd_append_start_append he hf), List.drop_append_of_le_length (by omega)]

/-- A body the loop emits holds no END: it stands before the first one. -/
theorem noEnd_of_mem_rescan {fuel : Nat} {buf b : List Byte} (h : b ∈ (rescan fuel buf).2) : NoEnd b := by
  induction fuel generalizing buf with
  | zero => simp [rescan] at h
  | succ fuel ih =>
    simp only [rescan] at h
    split at h
    case h_1 s e hs he =>
      split at h
      · exact ih h
      · obtain rfl | h := List.mem_cons.1 h
        · exact findFirst_drop_of_none (findFirst_take he) _
        · exact ih h
    case h_2 => simp at h

theorem noEnd_of_mem_refFeed {buf c b : List Byte} (h : b ∈ (refFeed buf c).2) : NoEnd b := noEnd_of_mem_rescan h

/-- With a start marker before any END, the loop emits a body or leaves the buffer as it is. -/
theorem refFeed_silent {buf l : List Byte} {s : Nat} (hs : findFirst Config.startMarker l = some s)
    (hse : ∀ e, findFirst Config.endMarker l = some e → s ≤ e) (h : refFeed [] l = (buf, [])) : buf = l := by
  cases he : findFirst Config.endMarker l with
  | none =>
    rw [refFeed_stop (.inr he)] at h
    exact (congrArg Prod.fst h).symm
  | some e =>
    rw [refFeed_emit hs he (hse e he)] at h
    simp at h

/-- A start marker does not go without a body emitted. -/
theorem noStart_of_refFeed {buf l : List Byte} (h : refFeed [] l = (buf, [])) (hb : NoStart buf) : NoStart l := by
  cases hs : findFirst Config.startMarker l with
  | none => exact hs
  | some s =>
    by_cases hse : ∀ e, findFirst Config.endMarker l = some e → s ≤ e
    · rw [refFeed_silent hs hse h] at hb
      exact hb
    · push Not at hse
      obtain ⟨e, he, hlt⟩ := hse
      rw [refFeed_resync hs he hlt] at h
      have hs' : findFirst Config.startMarker (l.drop s) = some 0 := by
        rw [drop_of_findFirst hs]
        exact findFirst_append (findFirst_append_marker (l := []) startMarker_first_ne_second rfl) _
      rw [refFeed_silent hs' (fun _ _ => Nat.zero_le _) h, NoStart, hs'] at hb
      simp at hb

/-- Two frames are emitted as two bodies, the first of which is the first frame's only where no frame was open. -/
theorem refFeed_two_frames {s : State} {buf c f1 f2 : List Byte} (h : Tracks s buf c) (hf1 : NoEnd f1)
    (hf2 : NoEnd f2) :
    ∃ x, (refFeed buf (framed f1 ++ framed f2)).2 = [x, f2] ∧ (x = f1 ↔ NoStart buf) := by
  have hsecond : refFeed [] (framed f2) = ([], [f2]) := refFeed_framed_hunt rfl hf2
  obtain hm | hm := mode_hunt_or_body s
  · have hs := h.abstracts.hunt_iff.1 hm
    refine ⟨f1, ?_, iff_of_true rfl hs⟩
    rw [refFeed_append, refFeed_framed_hunt hs hf1, hsecond]
    rfl
  · obtain ⟨i, hs, he, -⟩ := h.abstracts.body_buffer hm
    refine ⟨buf.drop (i + 2) ++ (markerBytes Config.startMarker ++ f1), ?_, ?_⟩
    · rw [refFeed_append, refFeed_framed_body hs he hf1, hsecond]
      rfl
    · have hne : buf.drop (i + 2) ++ (markerBytes Config.startMarker ++ f1) ≠ f1 := fun heq => by
        have := congrArg List.length heq
        simp only [markerBytes, List.length_append, List.length_cons] at this
        omega
      exact iff_of_false hne (by simp [NoStart, hs])

/-- Settles O42: behind garbage that emits nothing and opens no frame the loop emits the two frames; a body emitted by the
garbage is one too many, and a frame it opens makes the first body longer than the first frame. -/
theorem resyncYieldsBothFramesExactlyWhen : Obligations.ResyncYieldsBothFramesExactlyWhen := by
  intro s garbage f1 f2 hm
  have htail := tracks_huntTail hm
  have hgarbage := htail.finalOf_feed garbage
  have hbodies : bodiesOf (eventsOf (feed (garbage ++ framed f1 ++ framed f2)) s) =
      (refFeed (huntTail s) garbage).2 ++ (refFeed (refFeed (huntTail s) garbage).1 (framed f1 ++ framed f2)).2 := by
    rw [bodiesOf, htail.bodiesFrom_feed, List.append_assoc, refFeed_append]
  constructor
  · intro h
    have hend (f : List Byte) (hf : f ∈ [f1, f2]) : NoEnd f := by
      rw [← h, bodiesOf, htail.bodiesFrom_feed] at hf
      exact noEnd_of_mem_refFeed hf
    have hf1 := hend f1 (by simp)
    have hf2 := hend f2 (by simp)
    obtain ⟨x, hframes, hx⟩ := refFeed_two_frames hgarbage hf1 hf2
    rw [hbodies, hframes] at h
    obtain ⟨hnone, hxf⟩ := List.append_inj' (t₁ := [x, f2]) (s₂ := []) h rfl
    exact ⟨noStart_of_refFeed (Prod.ext rfl hnone) (hx.1 (List.cons_eq_cons.1 hxf).1), hf1, hf2⟩
  · rintro ⟨hs, hf1, hf2⟩
    obtain ⟨x, hframes, hx⟩ := refFeed_two_frames hgarbage hf1 hf2
    have hfeed : refFeed (huntTail s) garbage = (huntTail s ++ garbage, []) := refFeed_stop (.inl hs)
    rw [hfeed] at hx hframes
    rw [hbodies, hfeed, hframes, hx.2 hs]
    rfl

end Sys2Proof.Machine
end

section
/-! SUPPORT. What the checker holds after the confirms of a body, when each bit of the verdict on a body is set and which
bytes it depends on, that every edge keeps the consumer in step with the block; and, with these, the statements about the
frame checker (42_validator.md). -/

namespace Sys2Proof.Machine

/-! When each bit of the verdict is set (R85) -/

theorem validate_chkErr_iff (b : List Byte) :
    (validate b).chkErr = true ↔ b.length < 4 ∨
      pairValue (byteAt b (b.length - 2)) (byteAt b (b.length - 1)) ≠ (checksum (payloadOf b)).toNat := by
  simp only [validate]
  split <;> simp_all

theorem validate_ok_eq (b : List Byte) : (validate b).ok = (!(validate b).lenErr && !(validate b).chkErr) := by
  simp only [validate]
  split <;> rfl

theorem validate_ok_iff (b : List Byte) :
    (validate b).ok = true ↔ (validate b).lenErr = false ∧ (validate b).chkErr = false := by
  simp [validate_ok_eq]

theorem validate_ok_of_chkErr {b : List Byte} (h : (validate b).chkErr = true) : (validate b).ok = false := by
  simp [validate_ok_eq, h]

theorem validate_lenErr_eq_false_iff (b : List Byte) :
    (validate b).lenErr = false ↔ 4 ≤ b.length ∧ pairValue (byteAt b 0) (byteAt b 1) = b.length - 4 := by
  rw [← Bool.not_eq_true, validate_lenErr_iff]
  simp

theorem validate_chkErr_eq_false_iff (b : List Byte) :
    (validate b).chkErr = false ↔ 4 ≤ b.length ∧
      pairValue (byteAt b (b.length - 2)) (byteAt b (b.length - 1)) = (checksum (payloadOf b)).toNat := by
  rw [← Bool.not_eq_true, validate_chkErr_iff]
  simp

theorem validate_declChk {b : List Byte} (h : 4 ≤ b.length) :
    (validate b).declChk = BitVec.ofNat 16 (pairValue (byteAt b (b.length - 2)) (byteAt b (b.length - 1))) := by
  rw [validate, if_neg h.not_gt]

theorem validate_actLen (b : List Byte) : (validate b).actLen = b.length - 4 := by
  simp only [validate]
  split
  case isTrue h => exact (Nat.sub_eq_zero_of_le h.le).symm
  case isFalse => rfl

/-- A pair of bytes stands for a 16-bit number (R30). -/
theorem pairValue_lt (hi lo : Byte) : pairValue hi lo < 65536 := by
  rw [← bigEndian_toNat]
  exact (bigEndian hi lo).isLt

/-- The id of a body that passes is its first payload byte, where it has one (R55, R92). -/
theorem id_of_validate_ok {b : List Byte} (h : (validate b).ok = true) :
    (if (validate b).idValid then some (validate b).id else none) = (payloadOf b).head? := by
  obtain ⟨hlen, -⟩ := (validate_lenErr_eq_false_iff b).1 ((validate_ok_iff b).1 h).1
  have hhead : (payloadOf b).head? = if 5 ≤ b.length then b[2]? else none := by
    rw [payloadOf, slice, List.head?_drop, List.getElem?_take]
    exact if_congr (by omega) rfl rfl
  have hvalid : (validate b).idValid = ((validate b).ok && decide (5 ≤ b.length)) := by
    rw [validate, if_neg hlen.not_gt]
  have hid : (validate b).id = if 5 ≤ b.length then byteAt b 2 else 0 := by
    rw [validate, if_neg hlen.not_gt]
  rw [hhead, hvalid, hid, h]
  by_cases h5 : 5 ≤ b.length
  · simp [h5, byteAt, List.getElem?_eq_getElem (show 2 < b.length by omega)]
  · simp [h5]

/-! The record after the confirms of a body (R90, R91) -/

theorem checkerHolds_foldl_confirm {s : State} {c : List Byte} (l : List Byte) (hc : CheckerHolds s c) :
    CheckerHolds (l.foldl confirm s) (c ++ l) := by
  induction l generalizing s c with
  | nil => rwa [List.append_nil]
  | cons p l ih =>
    rw [List.append_cons]
    exact ih (checkerHolds_confirm p hc)

theorem checkerHolds_confirms {s : State} (c : List Byte) (hs : FrameClear s) : CheckerHolds (c.foldl confirm s) c :=
  checkerHolds_foldl_confirm c (checkerHolds_nil hs)

theorem record_confirms {s : State} (c : List Byte) (hs : FrameClear s) :
    record (c.foldl confirm s) = expectedRecord c :=
  record_eq_expectedRecord (checkerHolds_confirms c hs)

theorem expectedRecord_bodyLen (c : List Byte) : (expectedRecord c).bodyLen.toNat = min c.length Config.nmax := by
  simp only [expectedRecord, BitVec.toNat_ofNat, Config.nmax]
  omega

theorem expectedRecord_actLen (c : List Byte) :
    (expectedRecord c).actLen.toNat = min (c.length - 4) (Config.nmax - 4) := by
  simp only [expectedRecord, validate_actLen, BitVec.toNat_ofNat, Config.nmax]
  omega

/-- The fields of a record of four bytes or more, in numbers (R91, R92). -/
theorem fullRecord_fields {n : Count17} (h : 4 ≤ n.toNat) (hi lo t1 t0 rid : Byte) (acc : Sum15) :
    let r := fullRecord n (bigEndian hi lo) (bigEndian t1 t0) (zext16 acc) rid
    r.declLen.toNat = pairValue hi lo ∧ r.declChk.toNat = pairValue t1 t0 ∧ r.compChk.toNat = acc.toNat ∧
    r.actLen.toNat = n.toNat - 4 ∧
    (r.lenErr = true ↔ pairValue hi lo ≠ n.toNat - 4) ∧ (r.chkErr = true ↔ pairValue t1 t0 ≠ acc.toNat) ∧
    (r.ok = true ↔ r.lenErr = false ∧ r.chkErr = false) ∧
    r.id = (if 5 ≤ n.toNat then rid else 0) ∧ (r.idValid = true ↔ r.ok = true ∧ 5 ≤ n.toNat) := by
  have hact : (n - 4).toNat = n.toNat - 4 := BitVec.toNat_sub_of_le (x := n) (y := 4) h
  refine ⟨bigEndian_toNat hi lo, bigEndian_toNat t1 t0, zext16_toNat acc, hact, ?_, ?_, passes_iff _ _, ?_, ?_⟩
  · rw [← hact, ← bigEndian_toNat]
    exact lengthError_iff _ _
  · rw [← bigEndian_toNat, ← zext16_toNat]
    exact checksumError_iff _ _
  · simp only [fullRecord, hasId_iff]
  · simp only [fullRecord, Bool.and_eq_true, hasId_iff]

/-! The bytes a verdict depends on (R94, R96) -/

/-- The payload and the declared checksum of a body stand behind its first two bytes, so the checksum check does not see
those. -/
theorem validate_chkErr_replace_length (a b h l : Byte) (d : List Byte) :
    (validate (h :: l :: d)).chkErr = (validate (a :: b :: d)).chkErr := by
  have hlast {x y : Byte} {j : Nat} (hj : 2 ≤ j) : byteAt (x :: y :: d) j = byteAt d (j - 2) :=
    byteAt_append_right (l := [x, y]) d (show j = 2 + (j - 2) by omega)
  have hpayload {x y : Byte} (hd : 2 ≤ d.length) : payloadOf (x :: y :: d) = d.take (d.length - 2) := by
    have hcut : (x :: y :: d).length - 2 = (d.length - 2) + 2 := by simp; omega
    rw [payloadOf, slice, hcut]
    rfl
  rw [Bool.eq_iff_iff, validate_chkErr_iff, validate_chkErr_iff]
  by_cases hd : 2 ≤ d.length
  · rw [hpayload hd, hpayload hd]
    simp [hlast (show 2 ≤ d.length + 1 by omega), hlast hd]
  · simp [show d.length + 1 + 1 < 4 by omega]

theorem byteAt_set_ne {l : List Byte} {i j : Nat} (b : Byte) (h : i ≠ j) : byteAt (l.set i b) j = byteAt l j := by
  simp [byteAt, List.getElem?_set_ne h]

theorem payloadOf_set {c : List Byte} {i : Nat} (b : Byte) (hi : 2 ≤ i) :
    payloadOf (c.set i b) = (payloadOf c).set (i - 2) b := by
  rw [payloadOf, payloadOf, slice, slice, List.length_set, List.take_set, List.drop_set, if_neg hi.not_gt]

theorem payloadOf_length (c : List Byte) : (payloadOf c).length = c.length - 4 := by
  simp only [payloadOf, slice, List.length_drop, List.length_take]
  omega

theorem byteAt_payloadOf {c : List Byte} {i : Nat} (hi : 2 ≤ i) (hlt : i < c.length - 2) :
    byteAt (payloadOf c) (i - 2) = byteAt c i := by
  rw [← byteAt_take hlt, payloadOf, slice, byteAt, byteAt, List.getElem?_drop, Nat.add_sub_cancel' hi]

/-- Another byte in the payload changes the checksum (R65). -/
theorem checksum_payloadOf_set {c : List Byte} {i : Nat} {b : Byte} (hi : 2 ≤ i) (hlt : i < c.length - 2)
    (hb : b ≠ byteAt c i) : checksum (payloadOf (c.set i b)) ≠ checksum (payloadOf c) := by
  rw [payloadOf_set b hi, ne_eq, checksum_set_eq_iff b (by rw [payloadOf_length]; omega), byteAt_payloadOf hi hlt]
  exact hb.symm

/-- A payload byte is no part of the declared checksum. -/
theorem validate_declChk_set {c : List Byte} {i : Nat} (b : Byte) (hi : 2 ≤ i) (hlt : i < c.length - 2) :
    (validate (c.set i b)).declChk = (validate c).declChk := by
  rw [validate_declChk (by rw [List.length_set]; omega), validate_declChk (by omega), List.length_set,
    byteAt_set_ne b (by omega), byteAt_set_ne b (by omega)]

/-- A payload byte is no part of the declared length. -/
theorem validate_lenErr_set {c : List Byte} {i : Nat} (b : Byte) (hi : 2 ≤ i) :
    (validate (c.set i b)).lenErr = (validate c).lenErr := by
  rw [Bool.eq_iff_iff, validate_lenErr_iff, validate_lenErr_iff, List.length_set, byteAt_set_ne b (by omega),
    byteAt_set_ne b (by omega)]

/-- Where the checksum matched, another payload byte is a checksum error (R94). -/
theorem validate_chkErr_set {c : List Byte} {i : Nat} {b : Byte} (hi : 2 ≤ i) (hlt : i < c.length - 2)
    (hb : b ≠ byteAt c i) (h : (validate c).chkErr = false) : (validate (c.set i b)).chkErr = true := by
  obtain ⟨-, hmatch⟩ := (validate_chkErr_eq_false_iff c).1 h
  rw [validate_chkErr_iff, List.length_set, byteAt_set_ne b (by omega), byteAt_set_ne b (by omega), hmatch]
  exact .inr fun heq => checksum_payloadOf_set hi hlt hb (BitVec.eq_of_toNat_eq heq.symm)

/-- A bit flipped is another byte. -/
theorem flip_bit_ne (b : Byte) {k : Nat} (hk : k < 8) : b ^^^ (1#8 <<< k) ≠ b := by
  intro h
  have hbit := congrArg (fun x => x.getLsbD k) h
  simp [hk] at hbit

/-! The consumer beside the block (R93, R121, log 8) -/

/-- The consumer sees a reset exactly where the block is reset. -/
theorem edgeAction_reset_iff (e : PortIn) : edgeAction e = .reset ↔ e.rst = true := by
  cases hr : e.rst <;> cases hv : e.inValid <;> simp [edgeAction, hr, hv]

/-- The block, its history and its consumer are in step: they agree, and in BODY with nothing held nothing was emitted
(R28 I5). A decoder in HUNT may have anything in its frame fields, so this asks less than `Inv`. -/
structure InStep (s : State) (h : FrameHistory) (c : Consumer) : Prop where
  history : HistoryAgrees s h
  consumer : ConsumerAgrees s h c
  unheld : s.mode = .body → s.pv = false → h.emitted = []

theorem inStep_of_inv {s : State} {h : FrameHistory} {c : Consumer} (hi : Inv s) (hh : HistoryAgrees s h)
    (hc : ConsumerAgrees s h c) : InStep s h c where
  history := hh
  consumer := hc
  unheld hm hp := (List.append_eq_nil_iff.1 ((hh.received hm).symm.trans (received_nil_of_unheld hi hh hm hp))).1

theorem consumerAgrees_of_hunt {s : State} {c : Consumer} (h : FrameHistory) (hm : s.mode = .hunt)
    (hp : c.pending = []) (hd : ∀ d ∈ c.delivered, ValidDelivery d) : ConsumerAgrees s h c where
  hunt_pending _ := hp
  body_pending hb := by simp [hm] at hb
  body_noEnd hb := by simp [hm] at hb
  delivered := hd

theorem consumerAgrees_of_body {s : State} {h : FrameHistory} {c : Consumer} (hm : s.mode = .body)
    (hp : c.pending = h.emitted) (he : NoEnd (h.emitted ++ heldBytes s)) (hd : ∀ d ∈ c.delivered, ValidDelivery d) :
    ConsumerAgrees s h c where
  hunt_pending hh := by simp [hm] at hh
  body_pending _ := hp
  body_noEnd _ := hp ▸ he
  delivered := hd

/-- Within BODY, the agreement after an edge in terms of what the edge emitted. -/
theorem consumerAgrees_within {s t : State} {e : PortIn} {h : FrameHistory} {c : Consumer} (hs : s.mode = .body)
    (ht : t.mode = .body) (hp : c.pending = h.emitted ++ emittedIn t.out)
    (he : NoEnd (h.emitted ++ emittedIn t.out ++ heldBytes t)) (hd : ∀ d ∈ c.delivered, ValidDelivery d) :
    ConsumerAgrees t (historyAfter s e t h) c := by
  rw [historyAfter_within e h hs ht]
  exact consumerAgrees_of_body ht hp he hd

theorem consumerAgrees_of_sameReceiver {s t : State} {h : FrameHistory} {c : Consumer} (hst : SameReceiver s t)
    (hc : ConsumerAgrees s h c) : ConsumerAgrees t h c where
  hunt_pending := by simpa only [hst.mode] using hc.hunt_pending
  body_pending := by simpa only [hst.mode] using hc.body_pending
  body_noEnd := by simpa only [hst.mode, heldBytes_of_sameReceiver hst] using hc.body_noEnd
  delivered := hc.delivered

/-- The bytes emitted since START and the held one hold no END. -/
theorem InStep.noEnd {s : State} {h : FrameHistory} {c : Consumer} (hs : InStep s h c) (hm : s.mode = .body) :
    NoEnd (h.emitted ++ heldBytes s) := by
  rw [← hs.consumer.body_pending hm]
  exact hs.consumer.body_noEnd hm

/-- Nothing pending, and every delivery valid, after FLUSH. -/
theorem InStep.flush {s : State} {h : FrameHistory} {c : Consumer} (hs : InStep s h c) :
    (c.cycle false (flushEvent s)).pending = [] ∧ ∀ d ∈ (c.cycle false (flushEvent s)).delivered, ValidDelivery d := by
  obtain hm | hm := mode_hunt_or_body s
  · have hevent : flushEvent s = none := by simp [flushEvent, hm]
    rw [hevent]
    exact ⟨hs.consumer.hunt_pending hm, hs.consumer.delivered⟩
  · have hevent : flushEvent s = some (.abort s.n) := by simp [flushEvent, hm]
    rw [hevent]
    exact ⟨rfl, hs.consumer.delivered⟩

/-- What a passing END delivers is valid: its record is the verdict on the pending bytes (R91, R93). -/
theorem validDelivery_of_ok {b : List Byte} (hend : NoEnd b) (hok : (expectedRecord b).ok = true) :
    ValidDelivery ⟨b, if (expectedRecord b).idValid then some (expectedRecord b).id else none⟩ where
  verifies := hok
  noEnd := hend
  id := id_of_validate_ok hok

/-- END leaves nothing pending, and adds at most a valid delivery. -/
theorem InStep.frameEnd {s : State} {h : FrameHistory} {c : Consumer} (hs : InStep s h c) (hm : s.mode = .body) :
    (c.take (.frameEnd (record s))).pending = [] ∧
    ∀ d ∈ (c.take (.frameEnd (record s))).delivered, ValidDelivery d := by
  have hend : NoEnd h.emitted := findFirst_eq_none_of_append_left (hs.noEnd hm)
  rw [record_eq_expectedRecord (hs.history.checker hm)]
  refine ⟨rfl, fun d hd => ?_⟩
  simp only [Consumer.take, hs.consumer.body_pending hm] at hd
  split at hd
  case isTrue hok =>
    obtain hd | hd := List.mem_append.1 hd
    · exact hs.consumer.delivered d hd
    · rw [List.mem_singleton.1 hd]
      exact validDelivery_of_ok hend hok
  case isFalse => exact hs.consumer.delivered d hd

/-- A byte that confirms the held one completes no END behind it (R71). -/
theorem InStep.noEnd_confirm {s : State} {h : FrameHistory} {c : Consumer} {b : Byte} (hs : InStep s h c)
    (hm : s.mode = .body) (hp : s.pv = true) (hb : completesEnd s.pv s.pend b = false) :
    NoEnd (h.emitted ++ [s.pend] ++ [b]) := by
  have hend := hs.noEnd hm
  rw [heldBytes_held hp] at hend
  refine findFirst_snoc_eq_none_iff.2 ⟨hend, fun ⟨hlast, hsecond⟩ => ?_⟩
  rw [List.getLast?_concat, Option.some.injEq] at hlast
  rw [(completesEnd_iff _ _ _).2 ⟨hp, hlast, hsecond⟩] at hb
  exact Bool.noConfusion hb

/-- Every transition but a reset, with the consumer taking what it shows, keeps the consumer in agreement. -/
theorem consumerAgrees_of_transition {s t : State} {e : PortIn} {h : FrameHistory} {c : Consumer}
    (htr : EdgeTransition s e t) (he : edgeAction e ≠ .reset) (hs : InStep s h c) :
    ConsumerAgrees t (historyAfter s e t h) (c.cycle false t.out) := by
  have hd := hs.consumer.delivered
  cases htr with
  | reset action => exact absurd action he
  | quiet same out received =>
    rw [out]
    obtain hm | hm := mode_hunt_or_body s
    · exact consumerAgrees_of_hunt _ (same.mode ▸ hm) (hs.consumer.hunt_pending hm) hd
    · rw [historyAfter_quiet h hm (same.mode ▸ hm) received out]
      exact consumerAgrees_of_sameReceiver same hs.consumer
  | flush => exact consumerAgrees_of_hunt _ rfl hs.flush.1 hs.flush.2
  | start b mode =>
    rw [historyAfter_from_hunt _ _ _ mode]
    exact consumerAgrees_of_body rfl (hs.consumer.hunt_pending mode) rfl hd
  | hunting b mode => exact consumerAgrees_of_hunt _ mode (hs.consumer.hunt_pending mode) hd
  | frameEnd b mode => exact consumerAgrees_of_hunt _ rfl (hs.frameEnd mode).1 (hs.frameEnd mode).2
  | confirm b mode pv received goesOn =>
    refine consumerAgrees_within mode mode ?_ ?_ hd
    · exact congrArg (· ++ [s.pend]) (hs.consumer.body_pending mode)
    · rw [heldBytes_held (by exact pv)]
      exact hs.noEnd_confirm mode pv goesOn
  | hold b mode pv =>
    refine consumerAgrees_within mode mode ?_ ?_ hd
    · exact (hs.consumer.body_pending mode).trans (List.append_nil _).symm
    · rw [heldBytes_held rfl, hs.unheld mode pv]
      exact findFirst_singleton _ _

/-- Only a start marker, which leaves the history empty, brings BODY about with nothing held. -/
theorem unheld_of_transition {s t : State} {e : PortIn} {h : FrameHistory} (htr : EdgeTransition s e t)
    (hs : s.mode = .body → s.pv = false → h.emitted = []) (hm : t.mode = .body) (hp : t.pv = false) :
    (historyAfter s e t h).emitted = [] := by
  cases htr with
  | reset => cases hm
  | quiet same out received =>
    have hm' := same.mode.trans hm
    rw [historyAfter_quiet h hm' hm received out]
    exact hs hm' (same.pv.trans hp)
  | flush => cases hm
  | start b mode =>
    rw [historyAfter_from_hunt _ _ _ mode]
    rfl
  | hunting b mode => exact absurd (mode.symm.trans hm) Mode.noConfusion
  | frameEnd => cases hm
  | confirm b mode pv => exact absurd (pv.symm.trans hp) Bool.noConfusion
  | hold => cases hp

/-- After a reset the pending body is dropped with the frame (R117). -/
theorem consumerAgrees_reset {s : State} {e : PortIn} {h : FrameHistory} {c : Consumer} (he : edgeAction e = .reset)
    (hd : ∀ d ∈ c.delivered, ValidDelivery d) :
    ConsumerAgrees (edgeEffect e s) (historyAfter s e (edgeEffect e s) h) (c.cycle true (edgeEffect e s).out) := by
  rw [edgeEffect_reset he]
  exact consumerAgrees_of_hunt _ rfl rfl hd

theorem edgeEffect_keeps_inStep (e : PortIn) {s : State} {h : FrameHistory} {c : Consumer} (hs : InStep s h c) :
    InStep (edgeEffect e s) (historyAfter s e (edgeEffect e s) h) (c.cycle e.rst (edgeEffect e s).out) where
  history := edgeEffect_keeps_historyAgrees e hs.history
  consumer := by
    cases hr : e.rst with
    | true => exact consumerAgrees_reset ((edgeAction_reset_iff e).2 hr) hs.consumer.delivered
    | false =>
      have he : edgeAction e ≠ .reset := by simp [edgeAction_reset_iff, hr]
      exact consumerAgrees_of_transition (edgeEffect_transition e s) he hs
  unheld := unheld_of_transition (edgeEffect_transition e s) hs.unheld

/-- Over any edges the consumer delivers only valid bodies. -/
theorem consume_delivered_valid (es : List PortIn) {s : State} {h : FrameHistory} {c : Consumer} (hs : InStep s h c) :
    ∀ d ∈ (consume es (s, c)).2.delivered, ValidDelivery d := by
  induction es generalizing s h c with
  | nil => exact hs.consumer.delivered
  | cons e es ih =>
    rw [consume_cons]
    exact ih (edgeEffect_keeps_inStep e hs)

/-- A block in HUNT, whatever its frame fields hold, is in step with a consumer that has seen nothing. -/
theorem inStep_fresh {s : State} (hm : s.mode = .hunt) : InStep s FrameHistory.none Consumer.fresh where
  history := historyAgrees_of_hunt _ hm
  consumer := consumerAgrees_of_hunt _ hm rfl (fun d hd => by simp [Consumer.fresh] at hd)
  unheld hb := by simp [hm] at hb

/-! The statements -/

/-- Settles O52: a step is one transition of the receive path, and every transition keeps the consumer in step. -/
theorem stepKeepsTheConsumerInAgreement : Obligations.StepKeepsTheConsumerInAgreement := by
  intro s h c hi hh hc
  have ht := edgeEffect_keeps_inStep (nextEdge s) (inStep_of_inv hi hh hc)
  exact ⟨_, step_eq_edgeEffect s, consumerAgrees_of_sameReceiver (sameReceiver_withInputs _ _) ht.consumer⟩

/-- Settles O26: every confirm takes the checker to the body with one more byte, and no accumulator has bit 15 set. -/
theorem checkerFieldsAfterConfirms : Obligations.CheckerFieldsAfterConfirms := by
  intro s c hs
  refine ⟨checkerHolds_confirms c hs, fun _ hhigh => ?_⟩
  have := (checksum (payloadOf c)).isLt
  rw [record_confirms c hs]
  refine (validate_chkErr_iff c).2 (.inr ?_)
  rw [pairValue]
  omega

/-- Settles O27: the two forms of the record, and that the checker holds what the record of the verdict needs. -/
theorem recordEqualsValidate : Obligations.RecordEqualsValidate := by
  refine ⟨fun s h => ?_, fun s h => ?_, fun s c => record_confirms c⟩
  · obtain ⟨-, heq⟩ | ⟨hn, -⟩ := record_cases s
    · exact heq
    · omega
  · obtain ⟨hn, -⟩ | ⟨-, heq⟩ := record_cases s
    · omega
    · rw [heq]
      exact ⟨rfl, rfl, fullRecord_fields h s.lh s.ll s.t1 s.t0 s.rid s.racc⟩

/-- Settles O28: the record is the verdict's but for the two counts, and no declared length reaches 65536. -/
theorem saturationChangesNoVerdict : Obligations.SaturationChangesNoVerdict := by
  intro s c hs r
  have hr : r = expectedRecord c := record_confirms c hs
  rw [hr, expectedRecord_bodyLen, expectedRecord_actLen, validate_actLen, Config.nmax]
  refine ⟨fun hlen => ?_, fun hlen => by omega, fun hlen => by omega, rfl, rfl, rfl, rfl, rfl, rfl⟩
  have hdecl := pairValue_lt (byteAt c 0) (byteAt c 1)
  have herr : (validate c).lenErr = true := (validate_lenErr_iff c).2 (.inr (by omega))
  exact ⟨herr, validate_ok_of_lenErr herr⟩

/-- Settles O29: agreement in length and checksum is all the verdict asks. -/
theorem declaredLengthRangeIsNotChecked : Obligations.DeclaredLengthRangeIsNotChecked := by
  intro s c hs h4 _ hlen hchk
  rw [record_confirms c hs, expectedRecord_ok, validate_ok_iff]
  exact ⟨(validate_lenErr_eq_false_iff c).2 ⟨h4, hlen⟩, (validate_chkErr_eq_false_iff c).2 ⟨h4, hchk⟩⟩

/-- Settles O30: another pair of length bytes stands for another number, and the checksum check does not see it. -/
theorem damagedLengthIsALengthError : Obligations.DamagedLengthIsALengthError := by
  intro s c h l hs hok hne r
  obtain ⟨hlen, hchk⟩ := (validate_ok_iff c).1 hok
  obtain ⟨h4, hdecl⟩ := (validate_lenErr_eq_false_iff c).1 hlen
  obtain _ | ⟨a, _ | ⟨b, d⟩⟩ := c
  case nil => simp at h4
  case cons.nil => simp at h4
  case cons.cons =>
    have herr : (validate (h :: l :: d)).lenErr = true := by
      refine (validate_lenErr_iff _).2 (.inr fun heq => ?_)
      obtain ⟨hh, hl⟩ := pairValue_inj (heq.trans hdecl.symm)
      exact hne.elim (absurd hh) (absurd hl)
    have hr : r = expectedRecord (h :: l :: d) := record_confirms (h :: l :: d) hs
    rw [hr]
    exact ⟨herr, (validate_chkErr_replace_length a b h l d).trans hchk, validate_ok_of_lenErr herr⟩

/-- Settles O34: the flipped byte changes the payload's checksum, and neither of the declared fields. -/
theorem flippedPayloadBitIsRejected : Obligations.FlippedPayloadBitIsRejected := by
  intro s c i k hm hi hlt hk hchk hend
  have herr := validate_chkErr_set hi hlt (flip_bit_ne (byteAt c i) hk) hchk
  exact ⟨_, eventsOf_feed_framed hm hend, herr, validate_ok_of_chkErr herr, validate_declChk_set _ hi hlt,
    fun hok => (validate_lenErr_set _ hi).trans ((validate_ok_iff c).1 hok).1⟩

/-- Settles O48: a consumer that has seen nothing is in step with any block in HUNT, and every edge keeps it so. -/
theorem consumerDeliversOnlyValidBodies : Obligations.ConsumerDeliversOnlyValidBodies :=
  fun _ es hm => consume_delivered_valid es (inStep_fresh hm)

end Sys2Proof.Machine
end

section
/-! SUPPORT. The error fields of a record and the code each gives on the event port, and the event FLUSH presents in BODY;
and, with these, the statements about exceptions: that no run stops, and that the errors of a frame are reported in-band
(60_exceptions.md). -/

namespace Sys2Proof.Machine

/-- Settles O8: `step` answers from every state, so one edge more leaves a run that never stops. -/
theorem runsNeverStop : Obligations.RunsNeverStop := by
  intro k s
  induction k generalizing s with
  | zero => exact ⟨s, rfl⟩
  | succ k ih =>
    rw [run_succ_of_step k (step_eq_edgeEffect s)]
    exact ih _

/-! The error fields of a record (R91) -/

theorem record_bodyLen (s : State) : (record s).bodyLen = s.n := by
  obtain ⟨-, heq⟩ | ⟨-, heq⟩ := record_cases s <;> rw [heq] <;> rfl

theorem record_ok_eq (s : State) : (record s).ok = (!(record s).lenErr && !(record s).chkErr) := by
  obtain ⟨-, heq⟩ | ⟨-, heq⟩ := record_cases s <;> rw [heq] <;> rfl

theorem record_runt_eq (s : State) : (record s).runt = decide (s.n.toNat < 4) := by
  obtain ⟨hn, heq⟩ | ⟨hn, heq⟩ := record_cases s <;> rw [heq]
  · exact (decide_eq_true hn).symm
  · exact (decide_eq_false hn.not_gt).symm

theorem record_errors_of_runt {s : State} (h : s.n.toNat < 4) :
    (record s).lenErr = true ∧ (record s).chkErr = true := by
  obtain ⟨-, heq⟩ | ⟨hn, -⟩ := record_cases s
  · rw [heq]
    exact ⟨rfl, rfl⟩
  · omega

/-! The code an event carries for each condition (R99) -/

/-- The runt code asks for both error bits and `ok = 0`, which every runt record has. -/
theorem reports_runtBody_record (s : State) :
    reports .runtBody (.frameEnd (record s)) = decide (s.n.toNat < 4) := by
  rw [reports, record_ok_eq, record_runt_eq]
  by_cases h : s.n.toNat < 4
  · obtain ⟨hlen, hchk⟩ := record_errors_of_runt h
    simp [h, hlen, hchk]
  · simp [h]

theorem reports_lengthMismatch_record (s : State) :
    reports .lengthMismatch (.frameEnd (record s)) = (record s).lenErr := by
  rw [reports, record_ok_eq]
  cases (record s).lenErr <;> simp

theorem reports_checksumMismatch_record (s : State) :
    reports .checksumMismatch (.frameEnd (record s)) = (record s).chkErr := by
  rw [reports, record_ok_eq]
  cases (record s).chkErr <;> simp

/-- FLUSH in BODY presents ABORT with the confirmed count (R72). -/
theorem effect_flush_out_of_body {s : State} (h : s.mode = .body) (d : Byte) :
    (effect (.flush d) s).out = some (.abort s.n) := by
  simp [effect, flushEvent, h]

/-- Settles O21: the codes of the record formed, one condition at a time, and the ABORT that FLUSH presents in BODY. -/
theorem errorConditionsAreReported : Obligations.ErrorConditionsAreReported := by
  refine ⟨fun s => ?_, fun s d hm => ?_⟩
  · exact ⟨reports_runtBody_record s, reports_lengthMismatch_record s, reports_checksumMismatch_record s,
      record_ok_eq s, record_errors_of_runt, record_bodyLen s⟩
  · exact ⟨effect (.flush d) s, .abort s.n, exec_eq_effect _ s, effect_flush_out_of_body hm d, rfl, rfl⟩

end Sys2Proof.Machine
end

section
/-! SUPPORT. The state a reset edge leaves and what FLUSH leaves beside it, and that any edges keep the consumer in step
with the block; and, with these, the statements about reset and the consumer (70_reset_and_hazards.md). -/

namespace Sys2Proof.Machine

/-! Reset and FLUSH (R72, R113, R116) -/

/-- An edge with `rst = 1` leaves the reset state, whatever else it offers. -/
theorem step_reset_cons (v : Bool) (w : CmdWord) (es : List PortIn) (s : State) :
    step (s.withInputs (⟨true, v, w⟩ :: es)) = .next (State.reset.withInputs es) := by
  rw [step_withInputs_cons, edgeEffect_reset rfl]
  rfl

theorem flushEvent_eq (s : State) : flushEvent s = if s.mode = .body then some (.abort s.n) else none := by
  cases hm : s.mode <;> simp [flushEvent, hm]

/-- Reset and FLUSH differ in `tacc` and the event alone. -/
theorem resetEdge_eq_effect_flush (d : Byte) (s : State) :
    resetEdge s = { effect (.flush d) s with tacc := 0, out := none } := rfl

/-! The consumer over a run (R121, log 8) -/

/-- Over any edges the consumer stays in step with the block and the run's own history. -/
theorem consume_keeps_inStep (es : List PortIn) {s : State} {h : FrameHistory} {c : Consumer} (hs : InStep s h c) :
    InStep (consume es (s, c)).1 (historyFor es.length (s.withInputs es) h) (consume es (s, c)).2 := by
  induction es generalizing s h c with
  | nil =>
    exact ⟨historyAgrees_withInputs [] hs.history,
      consumerAgrees_of_sameReceiver (sameReceiver_withInputs s []) hs.consumer, hs.unheld⟩
  | cons e es ih =>
    rw [consume_cons, historyFor_cons]
    exact ih (edgeEffect_keeps_inStep e hs)

/-! The statements -/

/-- Settles O53: the fresh consumer begins in step with the block just reset, and any edges keep it so. -/
theorem consumerHoldsTheEmittedBytes : Obligations.ConsumerHoldsTheEmittedBytes := by
  intro es p
  have hs : InStep p.1 (historyOf es State.reset) p.2 := consume_keeps_inStep es (inStep_fresh rfl)
  refine ⟨consume_fst es State.reset Consumer.fresh, hs.consumer.hunt_pending, fun hm => ?_, fun hm hp => ?_⟩
  · have hpending := hs.consumer.body_pending hm
    refine ⟨hpending, ?_⟩
    rw [hpending]
    exact (hs.history.checker hm).n
  · exact (hs.consumer.body_pending hm).trans (hs.unheld hm hp)

/-- Settles O5: the edge leaves `State.reset`, which presents no event. -/
theorem resetEdgeClearsEveryField : Obligations.ResetEdgeClearsEveryField := by
  intro s v w rest
  obtain ⟨hvalid, hkind, hbyte, hrec⟩ := ports_of_no_event (s := State.reset.withInputs rest) rfl
  exact ⟨_, step_reset_cons v w rest s, rfl, rfl, rfl, rfl, rfl, rfl, rfl, rfl, rfl, rfl, rfl, rfl, rfl,
    hvalid, hkind, hbyte, hrec, rfl, rfl, rfl⟩

/-- Settles O17: the two edges side by side, and the edge on which FLUSH is not accepted, which is idle. -/
theorem resetAndFlushCompared : Obligations.ResetAndFlushCompared := by
  intro s d v w rest
  refine ⟨_, _, step_reset_cons v w rest s, step_withInputs_cons _ rest s, rfl, ?_, rfl, ?_, ?_,
    step_withInputs_cons _ rest s⟩ <;> rw [edgeEffect_command_encode]
  · exact flushEvent_eq s
  · exact effect_tacc rfl s
  · exact congrArg (·.withInputs rest) (resetEdge_eq_effect_flush d s)

end Sys2Proof.Machine
end
